-- ==== Sys2Proof/Word.lean ====
section
/-! DEFINITION. The plain number types of the block (R13, R80, R120) and the access widths (R80, R121). -/

namespace Sys2Proof

/-- 8 bits: a byte of flash, of a serial stream, or an 8-bit register. -/
abbrev Byte := BitVec 8

/-- 16 bits: a timer, serial-control, address-half or GPIO vector register. -/
abbrev Half := BitVec 16

/-- 32 bits: a bus value right-aligned, a flash address latch, a cipher word (R80). -/
abbrev Word := BitVec 32

/-- The transaction word `TXN` of R120, as the number its bits spell: its length depends on `ADDR_BITS` and is 67 bits
at CFG0 (log entry 19). -/
abbrev Txn := Nat

/-- The access widths that have a `size` code: 1, 2 and 4 bytes (R121). `WIDTHS` is a list of them (R10, log entry 3). -/
inductive Width where
  | b1
  | b2
  | b4
  deriving DecidableEq, Repr, Inhabited

/-- The width in bytes. -/
def Width.bytes : Width → Nat
  | .b1 => 1
  | .b2 => 2
  | .b4 => 4

/-- Four 32-bit words: a key, an initialization vector or a block of the cipher unit (R58). -/
structure Quad where
  w0 : Word
  w1 : Word
  w2 : Word
  w3 : Word
  deriving DecidableEq, Repr, Inhabited

/-- The quad of four zero words. -/
def Quad.zero : Quad := ⟨0, 0, 0, 0⟩

end Sys2Proof
end

