-- ==== Sys2Proof/Config.lean ====
section
/-! DEFINITION. The configuration record `Cfg` of R9 and R10, its default `CFG0`, its well-formedness
`CfgWF` of R12, the register address table of R95, and the free values: the uninterpreted functions of the
configuration (R11, R352) and the choice of R191, as constants without a body. -/

namespace Sys2Proof

/-- Byte order of a multi-byte read of the flash data window (R84, parameter `BYTE_ORDER`). -/
inductive ByteOrder where
  | little
  | big
  deriving DecidableEq, Repr, Inhabited

/-- Which functions stand for `BC_ENC` and `BC_DEC` (R11). `uninterpreted` is CFG0's: two functions of
which nothing is known. `toyXor` is the toy instantiation the spec's test vectors V42 to V48 and program P4 use. -/
inductive BlockCipher where
  | uninterpreted
  | toyXor
  deriving DecidableEq, Repr, Inhabited

/-- Which pin-state collaborator `COLLAB` the ports talk to (R352). `null` is CFG0's null collaborator.
`external` is any other one: nothing is known of its initial state, its operations and its own moves (log entry 9). -/
inductive Collaborator where
  | null
  | external
  deriving DecidableEq, Repr, Inhabited

/-- The three interrupt lines of a wired serial channel: tx-empty, tx-complete, rx-ready (R220). -/
structure SerialLines where
  txe : Nat
  txc : Nat
  rxr : Nat
  deriving DecidableEq, Repr, Inhabited

/-- The configuration record of R10. `cipherUnit` is the choice R7 leaves: whether the optional cipher unit is
there. -/
structure Cfg where
  addrBits : Nat
  /-- `WIDTHS`, from the widths that have a `size` code (R121, log entry 3). -/
  widths : List Width
  byteOrder : ByteOrder
  timerBase : Nat
  timerStride : Nat
  numTimer : Nat
  serialBase : Nat
  serialStride : Nat
  numSerial : Nat
  flashcBase : Nat
  flashcSize : Nat
  cipherBase : Nat
  cipherSize : Nat
  gpioBase : Nat
  gpioStride : Nat
  gpioSlots : Nat
  numPorts : Nat
  flashdBase : Nat
  flashSize : Nat
  tcntOff : Nat
  tmodOff : Nat
  tctlOff : Nat
  timerStartPattern : Byte
  timerStopPattern : Byte
  tmodRepeatBit : Nat
  tmodCksHi : Nat
  tmodCksLo : Nat
  divTable : List Nat
  fBaseHz : Nat
  spawnMayFail : Bool
  stxdOff : Nat
  srxdOff : Nat
  sctlOff : Nat
  sctlTxieBit : Nat
  rxCap : Nat
  rxAssertAtomic : Bool
  transportOk : List Bool
  serialLines : List (Option SerialLines)
  timerLine : List (Option Nat)
  fcmdOff : Nat
  fstatOff : Nat
  fsahOff : Nat
  fsalOff : Nat
  feahOff : Nat
  fealOff : Nat
  fwdOff : Nat
  fcmdClear : Byte
  fcmdWrite : Byte
  fcmdErase : Byte
  fcmdBlank : Byte
  fstatBusyMask : Byte
  fstatRdToggleMask : Byte
  /-- `FLASH_INIT`: the non-zero bytes of the array at reset, by rising offset. -/
  flashInit : List (Nat × Byte)
  cipherUnit : Bool
  ccmdOff : Nat
  cmodeOff : Nat
  ckeyOff : Nat
  civOff : Nat
  cdinOff : Nat
  cdoutOff : Nat
  ccmdDirBit : Nat
  ccmdCbcBit : Nat
  cipherReady : Word
  blockCipher : BlockCipher
  pctlOff : Nat
  pinOff : Nat
  pfsOff : Nat
  collab : Collaborator
  deriving DecidableEq, Repr, Inhabited

/-- The default configuration `CFG0`: the column of that name of R10. -/
def cfg0 : Cfg where
  addrBits := 32
  widths := [.b1, .b2, .b4]
  byteOrder := .little
  timerBase := 0x40000000
  timerStride := 0x10
  numTimer := 4
  serialBase := 0x40001000
  serialStride := 0x10
  numSerial := 4
  flashcBase := 0x40002000
  flashcSize := 0x10
  cipherBase := 0x40003000
  cipherSize := 0x20
  gpioBase := 0x40004000
  gpioStride := 0x20
  gpioSlots := 16
  numPorts := 8
  flashdBase := 0x40100000
  flashSize := 0x1000
  tcntOff := 0x0
  tmodOff := 0x2
  tctlOff := 0x4
  timerStartPattern := 0x01
  timerStopPattern := 0x02
  tmodRepeatBit := 0
  tmodCksHi := 6
  tmodCksLo := 4
  divTable := [1, 2, 4, 8, 16, 32, 0, 0]
  fBaseHz := 1000000
  spawnMayFail := false
  stxdOff := 0x0
  srxdOff := 0x2
  sctlOff := 0x4
  sctlTxieBit := 0
  rxCap := 256
  rxAssertAtomic := false
  transportOk := [true, true, true, true]
  serialLines := [some ⟨8, 9, 10⟩, none, none, none]
  timerLine := [some 0, some 1, some 2, some 3]
  fcmdOff := 0x0
  fstatOff := 0x2
  fsahOff := 0x4
  fsalOff := 0x6
  feahOff := 0x8
  fealOff := 0xA
  fwdOff := 0xC
  fcmdClear := 0x00
  fcmdWrite := 0x01
  fcmdErase := 0x02
  fcmdBlank := 0x03
  fstatBusyMask := 0x01
  fstatRdToggleMask := 0x01
  flashInit := []
  cipherUnit := true
  ccmdOff := 0x00
  cmodeOff := 0x04
  ckeyOff := 0x08
  civOff := 0x0C
  cdinOff := 0x10
  cdoutOff := 0x14
  ccmdDirBit := 0
  ccmdCbcBit := 1
  cipherReady := 0x00000001
  blockCipher := .uninterpreted
  pctlOff := 0x00
  pinOff := 0x04
  pfsOff := 0x10
  collab := .null

/-! ## Free values -/

/-- `BC_ENC` of R11: of it nothing is known but that it is a total function of key and block (log entry 8). -/
opaque Config.bcEnc : Quad → Quad → Quad

/-- `BC_DEC` of R11: of it nothing is known but that it is a total function of key and block (log entry 8). -/
opaque Config.bcDec : Quad → Quad → Quad

/-- Whether the k-th arming start of a configuration with `SPAWN_MAY_FAIL` brings an agent into being: R191
admits both (log entry 7). -/
opaque Config.spawnSucceeds : Nat → Bool

/-- `PinSet` of an external collaborator (R352): the state it moves to, from its state, the port, the direction
and the output data (log entry 9). -/
opaque Config.extPinSet : Nat → Nat → Half → Half → Nat

/-- `PinGet` of an external collaborator (R352): direction, output data and pin levels of the port (log entry 9). -/
opaque Config.extPinGet : Nat → Nat → Half × Half × Half

/-- How an external collaborator may change its state on its own (R352): whether `PIN.OVERRIDE p` may take it from one
state to another (log entry 9). -/
opaque Config.extMoves : Nat → Nat → Nat → Bool

/-- `COLLAB`'s state right after reset where it is an external one (R430: "its initial state"; log entry 9). -/
opaque Config.extInitial : Nat

/-! ## The register address table -/

/-- The unit an address window belongs to (R18, R95). -/
inductive Owner where
  | timer (n : Nat)
  | serial (ch : Nat)
  | flashc
  | cipher
  | gpio
  | flashd
  deriving DecidableEq, Repr, Inhabited

/-- One row of the register address table: the addresses `base` up to but not including `base + size` (R95). -/
structure Window where
  base : Nat
  size : Nat
  owner : Owner
  deriving DecidableEq, Repr, Inhabited

/-- The window covers the address (R95). -/
def Window.covers (w : Window) (addr : Nat) : Bool := decide (w.base ≤ addr) && decide (addr < w.base + w.size)

/-- No address is in both windows (R96). -/
abbrev Window.Disjoint (v w : Window) : Prop :=
  v.size = 0 ∨ w.size = 0 ∨ v.base + v.size ≤ w.base ∨ w.base + w.size ≤ v.base

/-- The register address table of R95. -/
def Cfg.addressTable (c : Cfg) : List Window :=
  (List.range c.numTimer).map (fun n => ⟨c.timerBase + n * c.timerStride, c.timerStride, .timer n⟩) ++
  (List.range c.numSerial).map (fun ch => ⟨c.serialBase + ch * c.serialStride, c.serialStride, .serial ch⟩) ++
  [⟨c.flashcBase, c.flashcSize, .flashc⟩] ++
  [⟨c.cipherBase, c.cipherSize, .cipher⟩, ⟨c.gpioBase, c.gpioSlots * c.gpioStride, .gpio⟩,
   ⟨c.flashdBase, c.flashSize, .flashd⟩]

/-- The windows that answer: those of the table, but for the cipher window where the optional unit is left out, whose
addresses are then in no window (R7, R163). -/
def Cfg.windows (c : Cfg) : List Window :=
  c.addressTable.filter fun w => c.cipherUnit || decide (w.owner ≠ .cipher)

/-- Every line id of `TIMER_LINE` and `SERIAL_LINES`, in table order (R386). -/
def Cfg.lineIds (c : Cfg) : List Nat :=
  c.timerLine.filterMap id ++
  c.serialLines.flatMap (fun o => match o with
    | none => []
    | some l => [l.txe, l.txc, l.rxr])

/-! ## Well-formed configurations -/

/-- R12 (a): the windows of the table of R95 are disjoint and inside the address space. The model's choices here: the
cipher window is one of them also where the unit is left out, because its whole window then decodes as unmapped (R163;
DESIGN CHOICE, log entry 6); and the bound of the flash window is that of R12, 2 to the `ADDR_BITS`, also where that is
more than the 2^32 of R285 (DESIGN CHOICE, log entry 20). -/
abbrev Cfg.WindowsOk (c : Cfg) : Prop :=
  c.addressTable.Pairwise Window.Disjoint ∧ ∀ w ∈ c.addressTable, w.size = 0 ∨ w.base + w.size ≤ 2 ^ c.addrBits

/-- R12 (b): no more ports than slots. -/
abbrev Cfg.CountsOk (c : Cfg) : Prop := c.numPorts ≤ c.gpioSlots

/-- Offsets with their register's width in bytes: distinct, and each register inside a window of `size` bytes (R12 (c)). -/
abbrev offsetsOk (size : Nat) (regs : List (Nat × Nat)) : Prop :=
  (regs.map Prod.fst).Nodup ∧ ∀ r ∈ regs, r.1 + r.2 ≤ size

/-- R12 (c), for each kind of window there is, with register widths as R72 gives them. A port's registers are inside
its slot, and an absent cipher unit has none (DEDUCED, log entry 4). -/
abbrev Cfg.OffsetsOk (c : Cfg) : Prop :=
  (0 < c.numTimer → offsetsOk c.timerStride [(c.tcntOff, 2), (c.tmodOff, 2), (c.tctlOff, 1)]) ∧
  (0 < c.numSerial → offsetsOk c.serialStride [(c.stxdOff, 1), (c.srxdOff, 1), (c.sctlOff, 2)]) ∧
  offsetsOk c.flashcSize [(c.fcmdOff, 1), (c.fstatOff, 1), (c.fsahOff, 2), (c.fsalOff, 2), (c.feahOff, 2),
    (c.fealOff, 2), (c.fwdOff, 1)] ∧
  (c.cipherUnit = true → offsetsOk c.cipherSize [(c.ccmdOff, 4), (c.cmodeOff, 4), (c.ckeyOff, 4), (c.civOff, 4),
    (c.cdinOff, 4), (c.cdoutOff, 4)]) ∧
  (0 < c.gpioSlots → offsetsOk c.gpioStride
    ([(c.pctlOff, 4), (c.pinOff, 4)] ++ (List.range 16).map (fun i => (c.pfsOff + i, 1))))

/-- R12 (d): a buffer of at least one byte, a divisor per selector value, and `FLASH_INIT` inside the array. -/
abbrev Cfg.SizesOk (c : Cfg) : Prop :=
  1 ≤ c.rxCap ∧ c.divTable.length = 2 ^ (c.tmodCksHi - c.tmodCksLo + 1) ∧
  (c.flashInit.map Prod.fst).Pairwise (· < ·) ∧ ∀ x ∈ c.flashInit, x.1 < c.flashSize ∧ x.2 ≠ 0

/-- R12 (e): distinct start and stop patterns, distinct command codes. -/
abbrev Cfg.PatternsOk (c : Cfg) : Prop :=
  c.timerStartPattern ≠ c.timerStopPattern ∧ [c.fcmdClear, c.fcmdWrite, c.fcmdErase, c.fcmdBlank].Nodup

/-- R12 (f): one line, one source. -/
abbrev Cfg.LinesOk (c : Cfg) : Prop := c.lineIds.Nodup

/-- What R10's own column "meaning" takes for granted of the fields: one entry per channel in each per-channel
table, bit numbers inside their registers, a positive base frequency (R199) (DEDUCED, log entry 4). -/
abbrev Cfg.TypesOk (c : Cfg) : Prop :=
  c.transportOk.length = c.numSerial ∧ c.serialLines.length = c.numSerial ∧ c.timerLine.length = c.numTimer ∧
  c.tmodRepeatBit < 16 ∧ c.tmodCksLo ≤ c.tmodCksHi ∧ c.tmodCksHi < 16 ∧ 0 < c.fBaseHz ∧ c.sctlTxieBit < 16 ∧
  c.ccmdDirBit < 32 ∧ c.ccmdCbcBit < 32

/-- `CfgWF` of R12. -/
abbrev Cfg.WF (c : Cfg) : Prop :=
  c.WindowsOk ∧ c.CountsOk ∧ c.OffsetsOk ∧ c.SizesOk ∧ c.PatternsOk ∧ c.LinesOk ∧ c.TypesOk

end Sys2Proof
end

