-- ==== Sys2Proof/Syntax.lean ====
section
/-! DEFINITION. The bus operations of the block: one constructor per row of spec/opcode_table.json (R132, R133).
Every constructor keeps the access width `w`, and a write keeps the written value `v`, right-aligned in 32 bits,
so that nothing of the access is lost (R120, R122). -/

namespace Sys2Proof

/-- One bus operation with its operands: the "instruction" of this hardware (R1, R5). -/
inductive Instr where
  /-- `TCNT.W`: write the reload register of timer channel `n` (R181). -/
  | tcntW (n : Nat) (w : Width) (v : Word)
  /-- `TCNT.R`: read the reload register of channel `n` (R182). -/
  | tcntR (n : Nat) (w : Width)
  /-- `TMOD.W`: write the mode register of channel `n` (R183). -/
  | tmodW (n : Nat) (w : Width) (v : Word)
  /-- `TMOD.R`: read the mode register of channel `n` (R184). -/
  | tmodR (n : Nat) (w : Width)
  /-- `TCTL.START`: write the start pattern to the control register of channel `n` (R186). -/
  | tctlStart (n : Nat) (w : Width) (v : Word)
  /-- `TCTL.STOP`: write the stop pattern to the control register of channel `n` (R187). -/
  | tctlStop (n : Nat) (w : Width) (v : Word)
  /-- `TCTL.OTHER`: write any other value to the control register of channel `n` (R188). -/
  | tctlOther (n : Nat) (w : Width) (v : Word)
  /-- `TCTL.R`: read the control register of channel `n` (R189). -/
  | tctlR (n : Nat) (w : Width)
  /-- `STXD.W`: write the transmit-data register of serial channel `ch` (R221). -/
  | stxdW (ch : Nat) (w : Width) (v : Word)
  /-- `STXD.R`: read the transmit-data register of channel `ch` (R222). -/
  | stxdR (ch : Nat) (w : Width)
  /-- `SRXD.R`: read the receive-data register of channel `ch` (R223). -/
  | srxdR (ch : Nat) (w : Width)
  /-- `SRXD.W`: write to the receive-data register of channel `ch` (R224). -/
  | srxdW (ch : Nat) (w : Width) (v : Word)
  /-- `SCTL.W`: write the control register of channel `ch` (R225). -/
  | sctlW (ch : Nat) (w : Width) (v : Word)
  /-- `SCTL.R`: read the control register of channel `ch` (R226). -/
  | sctlR (ch : Nat) (w : Width)
  /-- `FSAH.W`: write the high half of the start-address latch (R263). -/
  | fsahW (w : Width) (v : Word)
  /-- `FSAH.R`: read the high half of the start-address latch (R264). -/
  | fsahR (w : Width)
  /-- `FSAL.W`: write the low half of the start-address latch (R265). -/
  | fsalW (w : Width) (v : Word)
  /-- `FSAL.R`: read the low half of the start-address latch (R266). -/
  | fsalR (w : Width)
  /-- `FEAH.W`: write the high half of the end-address latch (R267). -/
  | feahW (w : Width) (v : Word)
  /-- `FEAH.R`: read the high half of the end-address latch (R268). -/
  | feahR (w : Width)
  /-- `FEAL.W`: write the low half of the end-address latch (R269). -/
  | fealW (w : Width) (v : Word)
  /-- `FEAL.R`: read the low half of the end-address latch (R270). -/
  | fealR (w : Width)
  /-- `FWD.W`: write the write-data latch (R271). -/
  | fwdW (w : Width) (v : Word)
  /-- `FWD.R`: read the write-data latch (R272). -/
  | fwdR (w : Width)
  /-- `FCMD.CLEAR`: issue the clear command (R274). -/
  | fcmdClear (w : Width) (v : Word)
  /-- `FCMD.WRITE`: issue the write command (R275). -/
  | fcmdWrite (w : Width) (v : Word)
  /-- `FCMD.ERASE`: issue the erase command (R276). -/
  | fcmdErase (w : Width) (v : Word)
  /-- `FCMD.BLANK`: issue the blank-check command (R277). -/
  | fcmdBlank (w : Width) (v : Word)
  /-- `FCMD.OTHER`: write any other value to the command register (R278). -/
  | fcmdOther (w : Width) (v : Word)
  /-- `FCMD.R`: read the command register (R279). -/
  | fcmdR (w : Width)
  /-- `FSTAT.R`: read the status register (R280). -/
  | fstatR (w : Width)
  /-- `FSTAT.W`: write to the status register (R281). -/
  | fstatW (w : Width) (v : Word)
  /-- `FLASHD.R`: read the flash data window at offset `o` (R282). -/
  | flashdR (o : Nat) (w : Width)
  /-- `FLASHD.W`: write into the flash data window at offset `o` (R283). -/
  | flashdW (o : Nat) (w : Width) (v : Word)
  /-- `CCMD.W`: write the cipher command register (R311). -/
  | ccmdW (w : Width) (v : Word)
  /-- `CCMD.R`: read the cipher command register (R312). -/
  | ccmdR (w : Width)
  /-- `CMODE.W`: write the cipher mode register (R313). -/
  | cmodeW (w : Width) (v : Word)
  /-- `CMODE.R`: read the cipher mode register (R314). -/
  | cmodeR (w : Width)
  /-- `CKEY.W`: write one key word (R315). -/
  | ckeyW (w : Width) (v : Word)
  /-- `CKEY.R`: read the key stream register (R316). -/
  | ckeyR (w : Width)
  /-- `CIV.W`: write one IV word (R317). -/
  | civW (w : Width) (v : Word)
  /-- `CIV.R`: read the IV stream register (R318). -/
  | civR (w : Width)
  /-- `CDIN.W`: write one input word (R319). -/
  | cdinW (w : Width) (v : Word)
  /-- `CDIN.R`: read the input stream register (R320). -/
  | cdinR (w : Width)
  /-- `CDOUT.R`: read one output word (R321). -/
  | cdoutR (w : Width)
  /-- `CDOUT.W`: write to the output stream register (R322). -/
  | cdoutW (w : Width) (v : Word)
  /-- `GPIO.REJECT.R`: read of a GPIO slot that is not a port (R354). -/
  | gpioRejectR (addr : Nat) (w : Width)
  /-- `GPIO.REJECT.W`: write to a GPIO slot that is not a port (R355). -/
  | gpioRejectW (addr : Nat) (w : Width) (v : Word)
  /-- `PCTL.W`: write direction and output data of port `p` (R356). -/
  | pctlW (p : Nat) (w : Width) (v : Word)
  /-- `PCTL.R`: read direction and output data of port `p` (R357). -/
  | pctlR (p : Nat) (w : Width)
  /-- `PIN.R`: read the pin levels of port `p` (R358). -/
  | pinR (p : Nat) (w : Width)
  /-- `PIN.W`: write to the input register of port `p` (R359). -/
  | pinW (p : Nat) (w : Width) (v : Word)
  /-- `PFS.W`: write the alternate-function register of pin `i` of port `p` (R360). -/
  | pfsW (p : Nat) (i : Fin 16) (w : Width) (v : Word)
  /-- `PFS.R`: read the alternate-function register of pin `i` of port `p` (R361). -/
  | pfsR (p : Nat) (i : Fin 16) (w : Width)
  /-- `NOREG.R.TIMER`: read inside a TIMER window of an address that is no register (R164). -/
  | noregRTimer (addr : Nat) (w : Width)
  /-- `NOREG.W.TIMER`: write inside a TIMER window to an address that is no register (R165). -/
  | noregWTimer (addr : Nat) (w : Width) (v : Word)
  /-- `NOREG.R.SERIAL`: read inside a SERIAL window of an address that is no register (R164). -/
  | noregRSerial (addr : Nat) (w : Width)
  /-- `NOREG.W.SERIAL`: write inside a SERIAL window to an address that is no register (R165). -/
  | noregWSerial (addr : Nat) (w : Width) (v : Word)
  /-- `NOREG.R.FLASHC`: read inside a FLASHC window of an address that is no register (R164). -/
  | noregRFlashc (addr : Nat) (w : Width)
  /-- `NOREG.W.FLASHC`: write inside a FLASHC window to an address that is no register (R165). -/
  | noregWFlashc (addr : Nat) (w : Width) (v : Word)
  /-- `NOREG.R.CIPHER`: read inside a CIPHER window of an address that is no register (R164). -/
  | noregRCipher (addr : Nat) (w : Width)
  /-- `NOREG.W.CIPHER`: write inside a CIPHER window to an address that is no register (R165). -/
  | noregWCipher (addr : Nat) (w : Width) (v : Word)
  /-- `NOREG.R.GPIO`: read inside a GPIO window of an address that is no register (R164). -/
  | noregRGpio (addr : Nat) (w : Width)
  /-- `NOREG.W.GPIO`: write inside a GPIO window to an address that is no register (R165). -/
  | noregWGpio (addr : Nat) (w : Width) (v : Word)
  /-- `UNMAPPED.R`: read of an address in no window (R163). -/
  | unmappedR (addr : Nat) (w : Width)
  /-- `UNMAPPED.W`: write to an address in no window (R166). -/
  | unmappedW (addr : Nat) (w : Width) (v : Word)
  deriving DecidableEq, Repr, Inhabited

/-- The mnemonic of the operation's row of spec/opcode_table.json (R133). -/
def Instr.mnemonic : Instr → String
  | .tcntW _ _ _ => "TCNT.W"
  | .tcntR _ _ => "TCNT.R"
  | .tmodW _ _ _ => "TMOD.W"
  | .tmodR _ _ => "TMOD.R"
  | .tctlStart _ _ _ => "TCTL.START"
  | .tctlStop _ _ _ => "TCTL.STOP"
  | .tctlOther _ _ _ => "TCTL.OTHER"
  | .tctlR _ _ => "TCTL.R"
  | .stxdW _ _ _ => "STXD.W"
  | .stxdR _ _ => "STXD.R"
  | .srxdR _ _ => "SRXD.R"
  | .srxdW _ _ _ => "SRXD.W"
  | .sctlW _ _ _ => "SCTL.W"
  | .sctlR _ _ => "SCTL.R"
  | .fsahW _ _ => "FSAH.W"
  | .fsahR _ => "FSAH.R"
  | .fsalW _ _ => "FSAL.W"
  | .fsalR _ => "FSAL.R"
  | .feahW _ _ => "FEAH.W"
  | .feahR _ => "FEAH.R"
  | .fealW _ _ => "FEAL.W"
  | .fealR _ => "FEAL.R"
  | .fwdW _ _ => "FWD.W"
  | .fwdR _ => "FWD.R"
  | .fcmdClear _ _ => "FCMD.CLEAR"
  | .fcmdWrite _ _ => "FCMD.WRITE"
  | .fcmdErase _ _ => "FCMD.ERASE"
  | .fcmdBlank _ _ => "FCMD.BLANK"
  | .fcmdOther _ _ => "FCMD.OTHER"
  | .fcmdR _ => "FCMD.R"
  | .fstatR _ => "FSTAT.R"
  | .fstatW _ _ => "FSTAT.W"
  | .flashdR _ _ => "FLASHD.R"
  | .flashdW _ _ _ => "FLASHD.W"
  | .ccmdW _ _ => "CCMD.W"
  | .ccmdR _ => "CCMD.R"
  | .cmodeW _ _ => "CMODE.W"
  | .cmodeR _ => "CMODE.R"
  | .ckeyW _ _ => "CKEY.W"
  | .ckeyR _ => "CKEY.R"
  | .civW _ _ => "CIV.W"
  | .civR _ => "CIV.R"
  | .cdinW _ _ => "CDIN.W"
  | .cdinR _ => "CDIN.R"
  | .cdoutR _ => "CDOUT.R"
  | .cdoutW _ _ => "CDOUT.W"
  | .gpioRejectR _ _ => "GPIO.REJECT.R"
  | .gpioRejectW _ _ _ => "GPIO.REJECT.W"
  | .pctlW _ _ _ => "PCTL.W"
  | .pctlR _ _ => "PCTL.R"
  | .pinR _ _ => "PIN.R"
  | .pinW _ _ _ => "PIN.W"
  | .pfsW _ _ _ _ => "PFS.W"
  | .pfsR _ _ _ => "PFS.R"
  | .noregRTimer _ _ => "NOREG.R.TIMER"
  | .noregWTimer _ _ _ => "NOREG.W.TIMER"
  | .noregRSerial _ _ => "NOREG.R.SERIAL"
  | .noregWSerial _ _ _ => "NOREG.W.SERIAL"
  | .noregRFlashc _ _ => "NOREG.R.FLASHC"
  | .noregWFlashc _ _ _ => "NOREG.W.FLASHC"
  | .noregRCipher _ _ => "NOREG.R.CIPHER"
  | .noregWCipher _ _ _ => "NOREG.W.CIPHER"
  | .noregRGpio _ _ => "NOREG.R.GPIO"
  | .noregWGpio _ _ _ => "NOREG.W.GPIO"
  | .unmappedR _ _ => "UNMAPPED.R"
  | .unmappedW _ _ _ => "UNMAPPED.W"

end Sys2Proof
end

