-- ==== Sys2Proof/WellFormed.lean ====
section
/-! DEFINITION. Which bus operations an access of a given configuration can be: every index is in its range, the
value of a write fits its width (R122), a value-decoded command carries its code (R134), and an operation that
reaches no register names an address where there is none (R123). -/

namespace Sys2Proof

/-- The value fits the access width: canonical write data (R122). -/
def Width.fits (w : Width) (v : Word) : Bool := decide (v.toNat < 2 ^ (8 * w.bytes))

/-- The command code a write to an 8-bit command register carries (R134). -/
def commandCode (v : Word) : Byte := v.setWidth 8

/-- The address is in a window of the named kind and equals none of that kind's register offsets (R164). -/
def Cfg.isHole (c : Cfg) (kind : Owner → Bool) (offsets : List Nat) (addr : Nat) : Bool :=
  c.windows.any fun win =>
    win.covers addr && kind win.owner && !offsets.contains (addr - win.base)

/-- The address is one of the address space and in no window (R80, R98). -/
def Cfg.isUnmapped (c : Cfg) (addr : Nat) : Bool :=
  decide (addr < 2 ^ c.addrBits) && c.windows.all fun win => !win.covers addr

/-- The address is in the GPIO window (R129). -/
def Cfg.inGpio (c : Cfg) (addr : Nat) : Bool :=
  decide (c.gpioBase ≤ addr) && decide (addr < c.gpioBase + c.gpioSlots * c.gpioStride)

/-- The GPIO slot of an address (R351: `port_index`). -/
def Cfg.gpioSlot (c : Cfg) (addr : Nat) : Nat := (addr - c.gpioBase) / c.gpioStride

/-- The offset of an address inside its GPIO slot (R351: `reg_off`). -/
def Cfg.gpioOff (c : Cfg) (addr : Nat) : Nat := (addr - c.gpioBase) % c.gpioStride

/-- A slot offset that is neither `PCTL` nor `PIN` nor a `PFS` (R129). -/
def Cfg.gpioOffFree (c : Cfg) (off : Nat) : Bool :=
  !(decide (off = c.pctlOff) || decide (off = c.pinOff) || (decide (c.pfsOff ≤ off) && decide (off < c.pfsOff + 16)))

/-- A hole of a timer window. -/
def Cfg.timerHole (c : Cfg) (addr : Nat) : Bool :=
  c.isHole (fun o => match o with | .timer _ => true | _ => false) [c.tcntOff, c.tmodOff, c.tctlOff] addr

/-- A hole of a serial window. -/
def Cfg.serialHole (c : Cfg) (addr : Nat) : Bool :=
  c.isHole (fun o => match o with | .serial _ => true | _ => false) [c.stxdOff, c.srxdOff, c.sctlOff] addr

/-- A hole of the flash controller window. -/
def Cfg.flashcHole (c : Cfg) (addr : Nat) : Bool :=
  c.isHole (fun o => decide (o = .flashc))
    [c.fcmdOff, c.fstatOff, c.fsahOff, c.fsalOff, c.feahOff, c.fealOff, c.fwdOff] addr

/-- A hole of the cipher window. -/
def Cfg.cipherHole (c : Cfg) (addr : Nat) : Bool :=
  c.isHole (fun o => decide (o = .cipher))
    [c.ccmdOff, c.cmodeOff, c.ckeyOff, c.civOff, c.cdinOff, c.cdoutOff] addr

/-- A hole of a GPIO port's slot. -/
def Cfg.gpioHole (c : Cfg) (addr : Nat) : Bool :=
  c.inGpio addr && decide (c.gpioSlot addr < c.numPorts) && c.gpioOffFree (c.gpioOff addr)

/-- A GPIO slot that is no port (R129). -/
def Cfg.gpioRejected (c : Cfg) (addr : Nat) : Bool := c.inGpio addr && decide (c.numPorts ≤ c.gpioSlot addr)

/-- The access width of a bus operation. -/
def Instr.width : Instr → Width
  | .tcntW _ w _ | .tcntR _ w | .tmodW _ w _ | .tmodR _ w | .tctlStart _ w _ | .tctlStop _ w _ => w
  | .tctlOther _ w _ | .tctlR _ w | .stxdW _ w _ | .stxdR _ w | .srxdR _ w | .srxdW _ w _ | .sctlW _ w _ => w
  | .sctlR _ w | .fsahW w _ | .fsahR w | .fsalW w _ | .fsalR w | .feahW w _ | .feahR w | .fealW w _ | .fealR w => w
  | .fwdW w _ | .fwdR w | .fcmdClear w _ | .fcmdWrite w _ | .fcmdErase w _ | .fcmdBlank w _ | .fcmdOther w _ => w
  | .fcmdR w | .fstatR w | .fstatW w _ | .flashdR _ w | .flashdW _ w _ | .ccmdW w _ | .ccmdR w | .cmodeW w _ => w
  | .cmodeR w | .ckeyW w _ | .ckeyR w | .civW w _ | .civR w | .cdinW w _ | .cdinR w | .cdoutR w | .cdoutW w _ => w
  | .gpioRejectR _ w | .gpioRejectW _ w _ | .pctlW _ w _ | .pctlR _ w | .pinR _ w | .pinW _ w _ | .pfsW _ _ w _ => w
  | .pfsR _ _ w | .noregRTimer _ w | .noregWTimer _ w _ | .noregRSerial _ w | .noregWSerial _ w _ => w
  | .noregRFlashc _ w | .noregWFlashc _ w _ | .noregRCipher _ w | .noregWCipher _ w _ | .noregRGpio _ w => w
  | .noregWGpio _ w _ | .unmappedR _ w | .unmappedW _ w _ => w

/-- The operands can be those of an access of this configuration. -/
def Instr.wf (c : Cfg) : Instr → Bool
  | .tcntW n w v => decide (n < c.numTimer) && w.fits v
  | .tcntR n _ => decide (n < c.numTimer)
  | .tmodW n w v => decide (n < c.numTimer) && w.fits v
  | .tmodR n _ => decide (n < c.numTimer)
  | .tctlStart n w v => decide (n < c.numTimer) && w.fits v && decide (commandCode v = c.timerStartPattern)
  | .tctlStop n w v => decide (n < c.numTimer) && w.fits v && decide (commandCode v = c.timerStopPattern)
  | .tctlOther n w v => decide (n < c.numTimer) && w.fits v && decide (commandCode v ≠ c.timerStartPattern) && decide (commandCode v ≠ c.timerStopPattern)
  | .tctlR n _ => decide (n < c.numTimer)
  | .stxdW ch w v => decide (ch < c.numSerial) && w.fits v
  | .stxdR ch _ => decide (ch < c.numSerial)
  | .srxdR ch _ => decide (ch < c.numSerial)
  | .srxdW ch w v => decide (ch < c.numSerial) && w.fits v
  | .sctlW ch w v => decide (ch < c.numSerial) && w.fits v
  | .sctlR ch _ => decide (ch < c.numSerial)
  | .fsahW w v => w.fits v
  | .fsahR _ => true
  | .fsalW w v => w.fits v
  | .fsalR _ => true
  | .feahW w v => w.fits v
  | .feahR _ => true
  | .fealW w v => w.fits v
  | .fealR _ => true
  | .fwdW w v => w.fits v
  | .fwdR _ => true
  | .fcmdClear w v => w.fits v && decide (commandCode v = c.fcmdClear)
  | .fcmdWrite w v => w.fits v && decide (commandCode v = c.fcmdWrite)
  | .fcmdErase w v => w.fits v && decide (commandCode v = c.fcmdErase)
  | .fcmdBlank w v => w.fits v && decide (commandCode v = c.fcmdBlank)
  | .fcmdOther w v => w.fits v && !([c.fcmdClear, c.fcmdWrite, c.fcmdErase, c.fcmdBlank].contains (commandCode v))
  | .fcmdR _ => true
  | .fstatR _ => true
  | .fstatW w v => w.fits v
  | .flashdR o _ => decide (o < c.flashSize)
  | .flashdW o w v => decide (o < c.flashSize) && w.fits v
  | .ccmdW w v => c.cipherUnit && w.fits v
  | .ccmdR _ => c.cipherUnit
  | .cmodeW w v => c.cipherUnit && w.fits v
  | .cmodeR _ => c.cipherUnit
  | .ckeyW w v => c.cipherUnit && w.fits v
  | .ckeyR _ => c.cipherUnit
  | .civW w v => c.cipherUnit && w.fits v
  | .civR _ => c.cipherUnit
  | .cdinW w v => c.cipherUnit && w.fits v
  | .cdinR _ => c.cipherUnit
  | .cdoutR _ => c.cipherUnit
  | .cdoutW w v => c.cipherUnit && w.fits v
  | .gpioRejectR addr _ => c.gpioRejected addr
  | .gpioRejectW addr w v => c.gpioRejected addr && w.fits v
  | .pctlW p w v => decide (p < c.numPorts) && w.fits v
  | .pctlR p _ => decide (p < c.numPorts)
  | .pinR p _ => decide (p < c.numPorts)
  | .pinW p w v => decide (p < c.numPorts) && w.fits v
  | .pfsW p _ w v => decide (p < c.numPorts) && w.fits v
  | .pfsR p _ _ => decide (p < c.numPorts)
  | .noregRTimer addr _ => c.timerHole addr
  | .noregWTimer addr w v => c.timerHole addr && w.fits v
  | .noregRSerial addr _ => c.serialHole addr
  | .noregWSerial addr w v => c.serialHole addr && w.fits v
  | .noregRFlashc addr _ => c.flashcHole addr
  | .noregWFlashc addr w v => c.flashcHole addr && w.fits v
  | .noregRCipher addr _ => c.cipherHole addr
  | .noregWCipher addr w v => c.cipherHole addr && w.fits v
  | .noregRGpio addr _ => c.gpioHole addr
  | .noregWGpio addr w v => c.gpioHole addr && w.fits v
  | .unmappedR addr _ => c.isUnmapped addr
  | .unmappedW addr w v => c.isUnmapped addr && w.fits v

/-- The well-formed bus operations of a configuration: an access width of `WIDTHS` (R82), and operands in order. -/
abbrev Instr.WF (c : Cfg) (i : Instr) : Prop := i.width ∈ c.widths ∧ i.wf c = true

end Sys2Proof
end

