-- ==== Sys2Proof/Decode.lean ====
section
/-! DEFINITION. Decoding an access to a bus operation (R120 to R134), the encoder back to the transaction word, and
the decode table of R133. Decoding is total and depends on the configuration and the access alone (R162, R167).
Addresses are natural numbers below 2 to the `ADDR_BITS` (R80). -/

namespace Sys2Proof

/-- One well-formed bus access (R80): its direction, width, address, and canonical write value (0 in a read). -/
structure Access where
  write : Bool
  width : Width
  addr : Nat
  data : Word
  deriving DecidableEq, Repr, Inhabited

/-- Canonical write data: the value's low `8*width` bits, the rest 0 (R122). -/
def canonicalData (w : Width) (v : Word) : Word :=
  match w with
  | .b1 => (v.setWidth 8).setWidth 32
  | .b2 => (v.setWidth 16).setWidth 32
  | .b4 => v

/-- The width a `size` code stands for; code 3 is none (R121). -/
def widthOfSize (size : Nat) : Option Width :=
  match size with
  | 0 => some .b1
  | 1 => some .b2
  | 2 => some .b4
  | _ => none

/-- The `size` code of a width (R121). -/
def sizeOfWidth (w : Width) : Nat :=
  match w with
  | .b1 => 0
  | .b2 => 1
  | .b4 => 2

/-! ## The fields of a transaction word (R120)

From the least significant end: `wdata` of 32 bits, `addr` of `ADDR_BITS` bits, `size` of two, `rw` of one. R120 gives
the word of `ADDR_BITS` = 32; that the other fields keep their order and length beside a longer or shorter `addr` is
this model's choice (DESIGN CHOICE, log entry 19). -/

/-- How many bits a transaction word has: 67 at CFG0. -/
def Cfg.txnBits (c : Cfg) : Nat := c.addrBits + 35

/-- `wdata`. -/
def txnData (t : Txn) : Word := BitVec.ofNat 32 t

/-- `addr`. -/
def txnAddr (c : Cfg) (t : Txn) : Nat := t / 2 ^ 32 % 2 ^ c.addrBits

/-- `size`. -/
def txnSize (c : Cfg) (t : Txn) : Nat := t / 2 ^ 32 / 2 ^ c.addrBits % 4

/-- `rw`: 1 is a write. -/
def txnWrite (c : Cfg) (t : Txn) : Bool := decide (t / 2 ^ 32 / 2 ^ c.addrBits / 4 % 2 = 1)

/-- The width of an access: the one its `size` code stands for, where that is one of `WIDTHS` (R121, R82). -/
def txnWidth (c : Cfg) (t : Txn) : Option Width :=
  match widthOfSize (txnSize c t) with
  | none => none
  | some w => if w ∈ c.widths then some w else none

/-- The access a transaction word denotes, in canonical form; none where its width is not one of `WIDTHS`, as with
`size` = 3, and none for a number too long for a transaction word (R120 to R122, R82, log entry 16). -/
def accessOfTxn (c : Cfg) (t : Txn) : Option Access :=
  if t < 2 ^ c.txnBits then
    match txnWidth c t with
    | none => none
    | some w =>
      some {
        write := txnWrite c t
        width := w
        addr := txnAddr c t
        data := if txnWrite c t then canonicalData w (txnData t) else 0 }
  else none

/-- The transaction word of an access (R120). -/
def Access.txn (c : Cfg) (a : Access) : Txn :=
  ((a.write.toNat * 4 + sizeOfWidth a.width) * 2 ^ c.addrBits + a.addr) * 2 ^ 32 + a.data.toNat

/-- The window of the register address table that contains the address, if any (R97). -/
def windowOf (c : Cfg) (addr : Nat) : Option Window := c.windows.find? (·.covers addr)

/-- The write operation of a command value at `TCTL[n]` (R134). -/
def decodeTctl (c : Cfg) (n : Nat) (w : Width) (v : Word) : Instr :=
  let code := v.setWidth 8
  if code = c.timerStartPattern then .tctlStart n w v
  else if code = c.timerStopPattern then .tctlStop n w v
  else .tctlOther n w v

/-- The write operation of a command value at `FCMD` (R134). -/
def decodeFcmd (c : Cfg) (w : Width) (v : Word) : Instr :=
  let code := v.setWidth 8
  if code = c.fcmdClear then .fcmdClear w v
  else if code = c.fcmdWrite then .fcmdWrite w v
  else if code = c.fcmdErase then .fcmdErase w v
  else if code = c.fcmdBlank then .fcmdBlank w v
  else .fcmdOther w v

/-- The operation at offset `off` of the window of timer channel `n` (R124). -/
def decodeTimer (c : Cfg) (n off : Nat) (a : Access) : Instr :=
  if off = c.tcntOff then (if a.write then .tcntW n a.width a.data else .tcntR n a.width)
  else if off = c.tmodOff then (if a.write then .tmodW n a.width a.data else .tmodR n a.width)
  else if off = c.tctlOff then (if a.write then decodeTctl c n a.width a.data else .tctlR n a.width)
  else if a.write then .noregWTimer a.addr a.width a.data
  else .noregRTimer a.addr a.width

/-- The operation at offset `off` of the window of serial channel `ch` (R125). -/
def decodeSerial (c : Cfg) (ch off : Nat) (a : Access) : Instr :=
  if off = c.stxdOff then (if a.write then .stxdW ch a.width a.data else .stxdR ch a.width)
  else if off = c.srxdOff then (if a.write then .srxdW ch a.width a.data else .srxdR ch a.width)
  else if off = c.sctlOff then (if a.write then .sctlW ch a.width a.data else .sctlR ch a.width)
  else if a.write then .noregWSerial a.addr a.width a.data
  else .noregRSerial a.addr a.width

/-- The operation at offset `off` of the flash controller window (R126). -/
def decodeFlashc (c : Cfg) (off : Nat) (a : Access) : Instr :=
  if off = c.fcmdOff then (if a.write then decodeFcmd c a.width a.data else .fcmdR a.width)
  else if off = c.fstatOff then (if a.write then .fstatW a.width a.data else .fstatR a.width)
  else if off = c.fsahOff then (if a.write then .fsahW a.width a.data else .fsahR a.width)
  else if off = c.fsalOff then (if a.write then .fsalW a.width a.data else .fsalR a.width)
  else if off = c.feahOff then (if a.write then .feahW a.width a.data else .feahR a.width)
  else if off = c.fealOff then (if a.write then .fealW a.width a.data else .fealR a.width)
  else if off = c.fwdOff then (if a.write then .fwdW a.width a.data else .fwdR a.width)
  else if a.write then .noregWFlashc a.addr a.width a.data
  else .noregRFlashc a.addr a.width

/-- The operation at offset `off` of the flash data window: every address is one (R127). -/
def decodeFlashd (off : Nat) (a : Access) : Instr :=
  if a.write then .flashdW off a.width a.data else .flashdR off a.width

/-- The operation at offset `off` of the cipher window (R128). -/
def decodeCipher (c : Cfg) (off : Nat) (a : Access) : Instr :=
  if off = c.ccmdOff then (if a.write then .ccmdW a.width a.data else .ccmdR a.width)
  else if off = c.cmodeOff then (if a.write then .cmodeW a.width a.data else .cmodeR a.width)
  else if off = c.ckeyOff then (if a.write then .ckeyW a.width a.data else .ckeyR a.width)
  else if off = c.civOff then (if a.write then .civW a.width a.data else .civR a.width)
  else if off = c.cdinOff then (if a.write then .cdinW a.width a.data else .cdinR a.width)
  else if off = c.cdoutOff then (if a.write then .cdoutW a.width a.data else .cdoutR a.width)
  else if a.write then .noregWCipher a.addr a.width a.data
  else .noregRCipher a.addr a.width

/-- The operation at offset `rel` of the GPIO window: slot by division, register by remainder, and a slot that is
no port is rejected whatever its register offset (R129, R351). -/
def decodeGpio (c : Cfg) (rel : Nat) (a : Access) : Instr :=
  let port := rel / c.gpioStride
  let off := rel % c.gpioStride
  if c.numPorts ≤ port then
    (if a.write then .gpioRejectW a.addr a.width a.data else .gpioRejectR a.addr a.width)
  else if off = c.pctlOff then (if a.write then .pctlW port a.width a.data else .pctlR port a.width)
  else if off = c.pinOff then (if a.write then .pinW port a.width a.data else .pinR port a.width)
  else if h : c.pfsOff ≤ off ∧ off < c.pfsOff + 16 then
    let i : Fin 16 := ⟨off - c.pfsOff, by omega⟩
    (if a.write then .pfsW port i a.width a.data else .pfsR port i a.width)
  else if a.write then .noregWGpio a.addr a.width a.data
  else .noregRGpio a.addr a.width

/-- The operation an access is (R123, steps 2 to 5). -/
def decodeAccess (c : Cfg) (a : Access) : Instr :=
  match windowOf c a.addr with
  | none => if a.write then .unmappedW a.addr a.width a.data else .unmappedR a.addr a.width
  | some win =>
    let off := a.addr - win.base
    match win.owner with
    | .timer n => decodeTimer c n off a
    | .serial ch => decodeSerial c ch off a
    | .flashc => decodeFlashc c off a
    | .cipher => decodeCipher c off a
    | .gpio => decodeGpio c off a
    | .flashd => decodeFlashd off a

/-- The operation of a transaction word; none, and so refused, where its width is none of `WIDTHS` (R123, R82). -/
def decode (c : Cfg) (t : Txn) : Option Instr := (accessOfTxn c t).map (decodeAccess c)

/-- The host's view of the decoder: the operation at configuration CFG0 of the transaction word whose bits are `w`,
bits at and above `nbits` counting as 0. -/
def decodeTableWord (nbits w : Nat) : Option Instr := decode cfg0 (w % 2 ^ nbits)

/-! ## The encoder -/

/-- A read access. -/
def readAccess (w : Width) (addr : Nat) : Access := ⟨false, w, addr, 0⟩

/-- A write access. -/
def writeAccess (w : Width) (addr : Nat) (v : Word) : Access := ⟨true, w, addr, v⟩

/-- The address of a timer register (R72). -/
def timerAddr (c : Cfg) (n off : Nat) : Nat := c.timerBase + n * c.timerStride + off

/-- The address of a serial register (R72). -/
def serialAddr (c : Cfg) (ch off : Nat) : Nat := c.serialBase + ch * c.serialStride + off

/-- The address of a GPIO register (R72). -/
def gpioAddr (c : Cfg) (p off : Nat) : Nat := c.gpioBase + p * c.gpioStride + off

/-- The access that is the operation (R132). -/
def Instr.access (c : Cfg) : Instr → Access
  | .tcntW n w v => writeAccess w (timerAddr c n c.tcntOff) v
  | .tcntR n w => readAccess w (timerAddr c n c.tcntOff)
  | .tmodW n w v => writeAccess w (timerAddr c n c.tmodOff) v
  | .tmodR n w => readAccess w (timerAddr c n c.tmodOff)
  | .tctlStart n w v => writeAccess w (timerAddr c n c.tctlOff) v
  | .tctlStop n w v => writeAccess w (timerAddr c n c.tctlOff) v
  | .tctlOther n w v => writeAccess w (timerAddr c n c.tctlOff) v
  | .tctlR n w => readAccess w (timerAddr c n c.tctlOff)
  | .stxdW ch w v => writeAccess w (serialAddr c ch c.stxdOff) v
  | .stxdR ch w => readAccess w (serialAddr c ch c.stxdOff)
  | .srxdR ch w => readAccess w (serialAddr c ch c.srxdOff)
  | .srxdW ch w v => writeAccess w (serialAddr c ch c.srxdOff) v
  | .sctlW ch w v => writeAccess w (serialAddr c ch c.sctlOff) v
  | .sctlR ch w => readAccess w (serialAddr c ch c.sctlOff)
  | .fsahW w v => writeAccess w (c.flashcBase + c.fsahOff) v
  | .fsahR w => readAccess w (c.flashcBase + c.fsahOff)
  | .fsalW w v => writeAccess w (c.flashcBase + c.fsalOff) v
  | .fsalR w => readAccess w (c.flashcBase + c.fsalOff)
  | .feahW w v => writeAccess w (c.flashcBase + c.feahOff) v
  | .feahR w => readAccess w (c.flashcBase + c.feahOff)
  | .fealW w v => writeAccess w (c.flashcBase + c.fealOff) v
  | .fealR w => readAccess w (c.flashcBase + c.fealOff)
  | .fwdW w v => writeAccess w (c.flashcBase + c.fwdOff) v
  | .fwdR w => readAccess w (c.flashcBase + c.fwdOff)
  | .fcmdClear w v => writeAccess w (c.flashcBase + c.fcmdOff) v
  | .fcmdWrite w v => writeAccess w (c.flashcBase + c.fcmdOff) v
  | .fcmdErase w v => writeAccess w (c.flashcBase + c.fcmdOff) v
  | .fcmdBlank w v => writeAccess w (c.flashcBase + c.fcmdOff) v
  | .fcmdOther w v => writeAccess w (c.flashcBase + c.fcmdOff) v
  | .fcmdR w => readAccess w (c.flashcBase + c.fcmdOff)
  | .fstatR w => readAccess w (c.flashcBase + c.fstatOff)
  | .fstatW w v => writeAccess w (c.flashcBase + c.fstatOff) v
  | .flashdR o w => readAccess w (c.flashdBase + o)
  | .flashdW o w v => writeAccess w (c.flashdBase + o) v
  | .ccmdW w v => writeAccess w (c.cipherBase + c.ccmdOff) v
  | .ccmdR w => readAccess w (c.cipherBase + c.ccmdOff)
  | .cmodeW w v => writeAccess w (c.cipherBase + c.cmodeOff) v
  | .cmodeR w => readAccess w (c.cipherBase + c.cmodeOff)
  | .ckeyW w v => writeAccess w (c.cipherBase + c.ckeyOff) v
  | .ckeyR w => readAccess w (c.cipherBase + c.ckeyOff)
  | .civW w v => writeAccess w (c.cipherBase + c.civOff) v
  | .civR w => readAccess w (c.cipherBase + c.civOff)
  | .cdinW w v => writeAccess w (c.cipherBase + c.cdinOff) v
  | .cdinR w => readAccess w (c.cipherBase + c.cdinOff)
  | .cdoutR w => readAccess w (c.cipherBase + c.cdoutOff)
  | .cdoutW w v => writeAccess w (c.cipherBase + c.cdoutOff) v
  | .gpioRejectR addr w => readAccess w addr
  | .gpioRejectW addr w v => writeAccess w addr v
  | .pctlW p w v => writeAccess w (gpioAddr c p c.pctlOff) v
  | .pctlR p w => readAccess w (gpioAddr c p c.pctlOff)
  | .pinR p w => readAccess w (gpioAddr c p c.pinOff)
  | .pinW p w v => writeAccess w (gpioAddr c p c.pinOff) v
  | .pfsW p i w v => writeAccess w (gpioAddr c p (c.pfsOff + i.val)) v
  | .pfsR p i w => readAccess w (gpioAddr c p (c.pfsOff + i.val))
  | .noregRTimer addr w => readAccess w addr
  | .noregWTimer addr w v => writeAccess w addr v
  | .noregRSerial addr w => readAccess w addr
  | .noregWSerial addr w v => writeAccess w addr v
  | .noregRFlashc addr w => readAccess w addr
  | .noregWFlashc addr w v => writeAccess w addr v
  | .noregRCipher addr w => readAccess w addr
  | .noregWCipher addr w v => writeAccess w addr v
  | .noregRGpio addr w => readAccess w addr
  | .noregWGpio addr w v => writeAccess w addr v
  | .unmappedR addr w => readAccess w addr
  | .unmappedW addr w v => writeAccess w addr v

/-- The transaction word of a bus operation (R132, R120). -/
def encode (c : Cfg) (i : Instr) : Txn := (i.access c).txn c

/-! ## The decode table -/

/-- One row of the decode table of R133: a transaction word selects it when its bits under `mask` are `value`. -/
structure OpcodeRow where
  mnemonic : String
  value : BitVec 67
  mask : BitVec 67
  deriving DecidableEq, Repr

/-- The rows of the decode table of R133 for CFG0, in priority order. -/
def opcodeRows : List OpcodeRow :=
  [⟨"TCNT.W", 0x44000000000000000, 0x4FFFFFFCF00000000⟩,
   ⟨"TCNT.R", 0x04000000000000000, 0x4FFFFFFCF00000000⟩,
   ⟨"TMOD.W", 0x44000000200000000, 0x4FFFFFFCF00000000⟩,
   ⟨"TMOD.R", 0x04000000200000000, 0x4FFFFFFCF00000000⟩,
   ⟨"TCTL.START", 0x44000000400000001, 0x4FFFFFFCF000000FF⟩,
   ⟨"TCTL.STOP", 0x44000000400000002, 0x4FFFFFFCF000000FF⟩,
   ⟨"TCTL.OTHER", 0x44000000400000000, 0x4FFFFFFCF00000000⟩,
   ⟨"TCTL.R", 0x04000000400000000, 0x4FFFFFFCF00000000⟩,
   ⟨"STXD.W", 0x44000100000000000, 0x4FFFFFFCF00000000⟩,
   ⟨"STXD.R", 0x04000100000000000, 0x4FFFFFFCF00000000⟩,
   ⟨"SRXD.R", 0x04000100200000000, 0x4FFFFFFCF00000000⟩] ++
  [⟨"SRXD.W", 0x44000100200000000, 0x4FFFFFFCF00000000⟩,
   ⟨"SCTL.W", 0x44000100400000000, 0x4FFFFFFCF00000000⟩,
   ⟨"SCTL.R", 0x04000100400000000, 0x4FFFFFFCF00000000⟩,
   ⟨"FSAH.W", 0x44000200400000000, 0x4FFFFFFFF00000000⟩,
   ⟨"FSAH.R", 0x04000200400000000, 0x4FFFFFFFF00000000⟩,
   ⟨"FSAL.W", 0x44000200600000000, 0x4FFFFFFFF00000000⟩,
   ⟨"FSAL.R", 0x04000200600000000, 0x4FFFFFFFF00000000⟩,
   ⟨"FEAH.W", 0x44000200800000000, 0x4FFFFFFFF00000000⟩,
   ⟨"FEAH.R", 0x04000200800000000, 0x4FFFFFFFF00000000⟩,
   ⟨"FEAL.W", 0x44000200A00000000, 0x4FFFFFFFF00000000⟩,
   ⟨"FEAL.R", 0x04000200A00000000, 0x4FFFFFFFF00000000⟩] ++
  [⟨"FWD.W", 0x44000200C00000000, 0x4FFFFFFFF00000000⟩,
   ⟨"FWD.R", 0x04000200C00000000, 0x4FFFFFFFF00000000⟩,
   ⟨"FCMD.CLEAR", 0x44000200000000000, 0x4FFFFFFFF000000FF⟩,
   ⟨"FCMD.WRITE", 0x44000200000000001, 0x4FFFFFFFF000000FF⟩,
   ⟨"FCMD.ERASE", 0x44000200000000002, 0x4FFFFFFFF000000FF⟩,
   ⟨"FCMD.BLANK", 0x44000200000000003, 0x4FFFFFFFF000000FF⟩,
   ⟨"FCMD.OTHER", 0x44000200000000000, 0x4FFFFFFFF00000000⟩,
   ⟨"FCMD.R", 0x04000200000000000, 0x4FFFFFFFF00000000⟩,
   ⟨"FSTAT.R", 0x04000200200000000, 0x4FFFFFFFF00000000⟩,
   ⟨"FSTAT.W", 0x44000200200000000, 0x4FFFFFFFF00000000⟩,
   ⟨"FLASHD.R", 0x04010000000000000, 0x4FFFFF00000000000⟩] ++
  [⟨"FLASHD.W", 0x44010000000000000, 0x4FFFFF00000000000⟩,
   ⟨"CCMD.W", 0x44000300000000000, 0x4FFFFFFFF00000000⟩,
   ⟨"CCMD.R", 0x04000300000000000, 0x4FFFFFFFF00000000⟩,
   ⟨"CMODE.W", 0x44000300400000000, 0x4FFFFFFFF00000000⟩,
   ⟨"CMODE.R", 0x04000300400000000, 0x4FFFFFFFF00000000⟩,
   ⟨"CKEY.W", 0x44000300800000000, 0x4FFFFFFFF00000000⟩,
   ⟨"CKEY.R", 0x04000300800000000, 0x4FFFFFFFF00000000⟩,
   ⟨"CIV.W", 0x44000300C00000000, 0x4FFFFFFFF00000000⟩,
   ⟨"CIV.R", 0x04000300C00000000, 0x4FFFFFFFF00000000⟩,
   ⟨"CDIN.W", 0x44000301000000000, 0x4FFFFFFFF00000000⟩,
   ⟨"CDIN.R", 0x04000301000000000, 0x4FFFFFFFF00000000⟩] ++
  [⟨"CDOUT.R", 0x04000301400000000, 0x4FFFFFFFF00000000⟩,
   ⟨"CDOUT.W", 0x44000301400000000, 0x4FFFFFFFF00000000⟩,
   ⟨"GPIO.REJECT.R", 0x04000410000000000, 0x4FFFFFF0000000000⟩,
   ⟨"GPIO.REJECT.W", 0x44000410000000000, 0x4FFFFFF0000000000⟩,
   ⟨"PCTL.W", 0x44000400000000000, 0x4FFFFFF1F00000000⟩,
   ⟨"PCTL.R", 0x04000400000000000, 0x4FFFFFF1F00000000⟩,
   ⟨"PIN.R", 0x04000400400000000, 0x4FFFFFF1F00000000⟩,
   ⟨"PIN.W", 0x44000400400000000, 0x4FFFFFF1F00000000⟩,
   ⟨"PFS.W", 0x44000401000000000, 0x4FFFFFF1000000000⟩,
   ⟨"PFS.R", 0x04000401000000000, 0x4FFFFFF1000000000⟩,
   ⟨"NOREG.R.TIMER", 0x04000000000000000, 0x4FFFFFFC000000000⟩] ++
  [⟨"NOREG.W.TIMER", 0x44000000000000000, 0x4FFFFFFC000000000⟩,
   ⟨"NOREG.R.SERIAL", 0x04000100000000000, 0x4FFFFFFC000000000⟩,
   ⟨"NOREG.W.SERIAL", 0x44000100000000000, 0x4FFFFFFC000000000⟩,
   ⟨"NOREG.R.FLASHC", 0x04000200000000000, 0x4FFFFFFF000000000⟩,
   ⟨"NOREG.W.FLASHC", 0x44000200000000000, 0x4FFFFFFF000000000⟩,
   ⟨"NOREG.R.CIPHER", 0x04000300000000000, 0x4FFFFFFE000000000⟩,
   ⟨"NOREG.W.CIPHER", 0x44000300000000000, 0x4FFFFFFE000000000⟩,
   ⟨"NOREG.R.GPIO", 0x04000400000000000, 0x4FFFFFE0000000000⟩,
   ⟨"NOREG.W.GPIO", 0x44000400000000000, 0x4FFFFFE0000000000⟩,
   ⟨"UNMAPPED.R", 0x00000000000000000, 0x40000000000000000⟩,
   ⟨"UNMAPPED.W", 0x40000000000000000, 0x40000000000000000⟩]

/-- The first row of the table the word selects (R133). -/
def tableRow (t : BitVec 67) : Option OpcodeRow := opcodeRows.find? fun r => t &&& r.mask == r.value

end Sys2Proof
end

