-- ==== Sys2Proof/Machine/Operands.lean ====
section
/-! DEFINITION. Conversions between bus values and registers: the width conversion of R87 and R88, and the assembly
of multi-part operands of R130. -/

namespace Sys2Proof.Machine

/-- The operand `v` a write of `value` at width `w` hands to a register of `W` bits: missing high bits are 0, extra
high bits are dropped (R87). -/
def writeOperand (W : Nat) (w : Width) (value : Word) : BitVec W := (canonicalData w value).setWidth W

/-- The value a read at width `w` of a register that yields `r` (already zero-extended to 32 bits) returns, again
zero-extended to 32 bits (R88). -/
def readValue (w : Width) (r : Word) : Word := canonicalData w r

/-- `tcnt` as a write stores it: 0 becomes 0xFFFF (R130 (d), R181). -/
def storedReload (v : Half) : Half := if v = 0 then 0xFFFF else v

/-- The reload value as a number, a latch still 0 from reset counting as 65535 (R185 `Reload`). -/
def reload (tcnt : Half) : Nat := if tcnt = 0 then 65535 else tcnt.toNat

/-- The field `m[hi:lo]` as a number (R13). -/
def bitField (m : Half) (hi lo : Nat) : Nat := m.toNat / 2 ^ lo % 2 ^ (hi - lo + 1)

/-- A 32-bit value from its high and low halves (R130 (a), (b)). -/
def joinHalves (hi lo : Half) : Word := hi ++ lo

/-- Bits 31:16 of a 32-bit value. -/
def highHalf (x : Word) : Half := x.extractLsb' 16 16

/-- Bits 15:0 of a 32-bit value. -/
def lowHalf (x : Word) : Half := x.extractLsb' 0 16

/-- The four bytes of a word in reverse order (R13 `bswap32`, R130 (c), R310). -/
def bswap32 (v : Word) : Word :=
  v.extractLsb' 0 8 ++ v.extractLsb' 8 8 ++ v.extractLsb' 16 8 ++ v.extractLsb' 24 8

/-- Word `i` of a quad. -/
def quadGet (q : Quad) (i : Fin 4) : Word :=
  match i with
  | 0 => q.w0
  | 1 => q.w1
  | 2 => q.w2
  | 3 => q.w3

/-- A quad with word `i` replaced. -/
def quadSet (q : Quad) (i : Fin 4) (v : Word) : Quad :=
  match i with
  | 0 => { q with w0 := v }
  | 1 => { q with w1 := v }
  | 2 => { q with w2 := v }
  | 3 => { q with w3 := v }

/-- `XOR` of two quads, word by word (R323). -/
def quadXor (a b : Quad) : Quad := ⟨a.w0 ^^^ b.w0, a.w1 ^^^ b.w1, a.w2 ^^^ b.w2, a.w3 ^^^ b.w3⟩

/-- The next position of a four-word group, modulo 4 (R315, R317, R319, R321). -/
def nextIdx (i : Fin 4) : Fin 4 :=
  match i with
  | 0 => 1
  | 1 => 2
  | 2 => 3
  | 3 => 0

/-- The number the bytes assemble to, the first one least significant (R282). -/
def littleEndian : List Byte → Nat
  | [] => 0
  | b :: bs => b.toNat + 256 * littleEndian bs

/-- The number the bytes of rising addresses assemble to, in `BYTE_ORDER` (R90, R282). -/
def assembleBytes (order : ByteOrder) (bs : List Byte) : Word :=
  match order with
  | .little => BitVec.ofNat 32 (littleEndian bs)
  | .big => BitVec.ofNat 32 (littleEndian bs.reverse)

end Sys2Proof.Machine
end

