-- ==== Sys2Proof/Machine/State.lean ====
section
/-! DEFINITION. The state of the block (R20 to R76) as plain data, the reasons a step can stop, and reset.

The block's own state is in the fields `timers` to `hist`. Five fields are the model's, not the spec's: `cfg` (the
configuration, a parameter of the step relation that no step changes: R20, log entry 1), `schedule` (which steps
the bus master, the agents and the environment take next: R15, log entry 2), `resp` (what the last bus access
returned to the bus master: R160, log entry 5), `spawnCtr` (how many free values of R191 have been used: log entry 7)
and `collab.token` (the state of an external collaborator: log entry 9). -/

namespace Sys2Proof.Machine

/-- The control state of a timing agent (R30). -/
inductive TPhase where
  | off
  | check
  | sleep (us : Nat)
  deriving DecidableEq, Repr, Inhabited

/-- One timer channel (R25 to R30). -/
structure TimerCh where
  /-- The reload value (R25). -/
  tcnt : Half
  /-- The mode register (R26). -/
  tmod : Half
  /-- The channel is armed (R28). -/
  running : Bool
  /-- A stop has been requested (R29). -/
  stopReq : Bool
  /-- The timing agent's control state (R30). -/
  tphase : TPhase
  deriving DecidableEq, Repr, Inhabited

/-- A timer channel after reset (R76). -/
def TimerCh.reset : TimerCh := ⟨0, 0, false, false, .off⟩

/-- One serial channel (R33 to R40) with its two transport streams (R46, R47). -/
structure SerialCh where
  /-- The transmit-data latch (R33). -/
  stxd : Byte
  /-- The control register (R34). -/
  sctl : Half
  /-- The receive ring buffer's storage, `RX_CAP` bytes (R35). -/
  rxBuf : List Byte
  /-- Index of the oldest unread byte (R36). -/
  rxStart : Nat
  /-- Index where the next inbound byte goes (R36). -/
  rxEnd : Nat
  /-- The number of unread bytes (R37). -/
  rxCount : Nat
  /-- The receive agent has pushed and not yet asserted (R40). -/
  rxPending : Bool
  /-- Bytes the transport has received and the receive agent has not taken (R46). -/
  rxIn : List Byte
  /-- Every byte handed to the transport, in order (R47). -/
  txOut : List Byte
  deriving DecidableEq, Repr, Inhabited

/-- A serial channel after reset (R76). -/
def SerialCh.reset (c : Cfg) : SerialCh := ⟨0, 0, List.replicate c.rxCap 0, 0, 0, 0, false, [], []⟩

/-- The backing array of the flash as (offset, byte) pairs by rising offset, without the zero bytes (R53). -/
abbrev Memory := List Host.Cell

/-- The flash controller (R48 to R53). -/
structure FlashCtl where
  /-- The last accepted command code (R48). -/
  fcmd : Byte
  /-- The status register (R49). -/
  fstat : Byte
  /-- The start-address latch (R50). -/
  fsa : Word
  /-- The end-address latch (R51). -/
  fea : Word
  /-- The write-data latch (R52). -/
  fwd : Byte
  /-- The backing array (R53). -/
  mem : Memory
  deriving DecidableEq, Repr, Inhabited

/-- The flash controller after reset (R76): every register 0 (R430). That the command register is 0x00 also where
`FCMD_CLEAR`, which R48 names beside that value, is another code is read from R430 and D37 (DEDUCED, log entry 21). -/
def FlashCtl.reset (c : Cfg) : FlashCtl := ⟨0x00, 0, 0, 0, 0, c.flashInit⟩

/-- The cipher unit (R56 to R60). -/
structure CipherUnit where
  /-- The accumulated command (R56). -/
  ccmd : Word
  /-- The mode register (R57). -/
  cmode : Word
  /-- The key (R58). -/
  ckey : Quad
  /-- The initialization vector, in CBC the running chain value (R58). -/
  civ : Quad
  /-- The input latch (R58). -/
  cdin : Quad
  /-- The output latch (R58). -/
  cdout : Quad
  /-- Fill index of the key group (R59). -/
  keyIdx : Fin 4
  /-- Fill index of the IV group (R59). -/
  ivIdx : Fin 4
  /-- Fill index of the input group (R59). -/
  dinIdx : Fin 4
  /-- Read-out index (R60). -/
  outIdx : Fin 4
  deriving DecidableEq, Repr, Inhabited

/-- The cipher unit after reset (R76). -/
def CipherUnit.reset : CipherUnit := ⟨0, 0, .zero, .zero, .zero, .zero, 0, 0, 0, 0⟩

/-- One GPIO port (R64, R65). -/
structure GpioPort where
  /-- Output data last written (R64). -/
  podr : Half
  /-- Direction last written (R64). -/
  pdr : Half
  /-- The alternate-function register of each pin (R65). -/
  pfs : Vector Byte 16
  deriving DecidableEq, Repr, Inhabited

/-- A port after reset (R76). -/
def GpioPort.reset : GpioPort := ⟨0, 0, Vector.replicate 16 0⟩

/-- The null collaborator's vectors of one port (R67). -/
structure PinVec where
  dir : Half
  out : Half
  ext : Half
  deriving DecidableEq, Repr, Inhabited

/-- The collaborator's vectors after reset (R76). -/
def PinVec.reset : PinVec := ⟨0, 0, 0⟩

/-- The state of the pin-state collaborator: the null collaborator's vectors per port (R67), and a token that
stands for the state of an external collaborator (R352, log entry 9). -/
structure CollabState where
  pins : List PinVec
  token : Nat
  deriving DecidableEq, Repr, Inhabited

/-- One event of the history (R380). -/
inductive Event where
  | assert (l : Nat)
  | clear (l : Nat)
  | pulse (l : Nat) (label : Option Nat)
  deriving DecidableEq, Repr, Inhabited

/-- What the last bus access returned to the bus master (R160, R161). -/
inductive Resp where
  /-- No access has been made. -/
  | none
  /-- A write, which returns nothing. -/
  | done
  /-- A read of the width `w`, which returned `v`, zero-extended to 32 bits. -/
  | data (w : Width) (v : Word)
  deriving DecidableEq, Repr, Inhabited

/-- One step somebody takes (R15): a bus access by the bus master, a step of a background agent, or a step of the
environment (R135). -/
inductive Action where
  /-- The bus master presents the access of a transaction word (R5). -/
  | bus (t : Txn)
  /-- `T.CHECK n` (R196). -/
  | tCheck (n : Nat)
  /-- `T.EXPIRE n` (R197). -/
  | tExpire (n : Nat)
  /-- `RX.DELIVER ch, bytes` (R235). -/
  | rxDeliver (ch : Nat) (bytes : List Byte)
  /-- `RX.PUSH ch, k` (R236). -/
  | rxPush (ch : Nat) (k : Nat)
  /-- `RX.ASSERT ch` (R237). -/
  | rxAssert (ch : Nat)
  /-- `PIN.OVERRIDE p` of the null collaborator: a new value, or left as it is, for each vector (R353). -/
  | pinOverride (p : Nat) (dir out ext : Option Half)
  /-- `PIN.OVERRIDE p` of an external collaborator: it moves to a state its own relation lets it (R353, log entry 9). -/
  | pinOverrideExt (p : Nat) (token : Nat)
  /-- `IRQ.SAMPLE` (R384). -/
  | irqSample
  deriving DecidableEq, Repr, Inhabited

/-- The state of the machine. -/
structure State where
  /-- The configuration: a parameter, written by nothing (R9, R20). -/
  cfg : Cfg
  /-- The timer channels, by number (R25 to R30). -/
  timers : List TimerCh
  /-- The serial channels, by number (R33 to R47). -/
  serials : List SerialCh
  /-- The flash controller (R48 to R53). -/
  flash : FlashCtl
  /-- The cipher unit (R56 to R60). -/
  cipher : CipherUnit
  /-- The GPIO ports, by number (R64, R65). -/
  ports : List GpioPort
  /-- The pin-state collaborator (R67). -/
  collab : CollabState
  /-- The interrupt lines at level 1, by rising line id; every other line is at 0 (R70). -/
  irqHigh : List Nat
  /-- The event history, oldest first (R71). -/
  hist : List Event
  /-- What the last bus access returned (the model's field). -/
  resp : Resp
  /-- The steps to be taken next, in order (the model's field). -/
  schedule : List Action
  /-- How many free values of R191 have been used (the model's field). -/
  spawnCtr : Nat
  deriving DecidableEq, Repr, Inhabited

/-- The reasons a step can stop with a fault: none. The block raises no synchronous exception and no access faults
(R400), so the type has no constructor. -/
inductive Fault where
  deriving DecidableEq, Repr

/-- The reasons the model refuses a step. -/
inductive Refusal where
  /-- Raised by `exec` for an operation that has no meaning yet. No arm uses it. Safe. -/
  | notModelled (mnemonic : String)
  /-- Raised by a bus step whose transaction word has a width that is none of `WIDTHS`, as with `size` = 3, or is no
  transaction word (log entry 16): it is not an access of the block, and the spec asks the model to refuse it (R82,
  R401). Safe: no behaviour is claimed. -/
  | notAnAccess
  /-- Raised by an agent or environment step that is not enabled in this state (R135, R196 to R198, R235 to R237):
  no execution of the block takes it. Safe: the run ends where no execution goes on. -/
  | notEnabled
  /-- Raised by `State.boot` for a configuration that is not well-formed (R434). Safe: no run starts. -/
  | badConfiguration
  deriving DecidableEq, Repr

/-- The three outcomes of a step of this machine. -/
abbrev Result := Host.Outcome State Fault Refusal

/-- The one state the block of a given configuration starts from (R76, R430). -/
def State.init (c : Cfg) : State where
  cfg := c
  timers := List.replicate c.numTimer .reset
  serials := List.replicate c.numSerial (.reset c)
  flash := .reset c
  cipher := .reset
  ports := List.replicate c.numPorts .reset
  collab := ⟨List.replicate c.numPorts .reset, match c.collab with | .null => 0 | .external => Config.extInitial⟩
  irqHigh := []
  hist := []
  resp := .none
  schedule := []
  spawnCtr := 0

/-- The configuration is checked once, before reset, and an ill-formed one is refused (R434). -/
def State.boot (c : Cfg) : Result :=
  if c.WF then .next (.init c) else .refused .badConfiguration

/-- The machine right after reset, in the default configuration (R76, R430). -/
def State.reset : State := .init cfg0

end Sys2Proof.Machine
end

