-- ==== Sys2Proof/Machine/Flags.lean ====
section
/-! DEFINITION. The status flags of R24 that are bits of a register, and the updates of the flash status bits
(R49, R273, R274, R280). -/

namespace Sys2Proof.Machine

/-- `TMOD_REPEAT_BIT`: 1 is repeat, 0 is one-shot (R26). -/
def repeatMode (c : Cfg) (tmod : Half) : Bool := tmod.getLsbD c.tmodRepeatBit

/-- The divisor the clock selector of a mode value picks; 0 is reserved (R185 `TimerDiv`). -/
def timerDiv (c : Cfg) (tmod : Half) : Nat := c.divTable.getD (bitField tmod c.tmodCksHi c.tmodCksLo) 0

/-- The clock selector is not a reserved one (R185 `TimerFreqValid`). -/
def timerFreqValid (c : Cfg) (tmod : Half) : Bool := decide (timerDiv c tmod ≠ 0)

/-- The interval in whole microseconds (R185 `TimerIntervalUs`, R451). -/
def timerIntervalUs (c : Cfg) (tcnt tmod : Half) : Nat := reload tcnt * timerDiv c tmod * 1000000 / c.fBaseHz

/-- `SCTL_TXIE_BIT`: transmit-interrupt enable (R34). -/
def txie (c : Cfg) (sctl : Half) : Bool := sctl.getLsbD c.sctlTxieBit

/-- `CCMD_DIR_BIT`: 1 is decrypt (R56). -/
def cipherDecrypt (c : Cfg) (ccmd : Word) : Bool := ccmd.getLsbD c.ccmdDirBit

/-- `CCMD_CBC_BIT`: 1 is CBC (R56). -/
def cipherCbc (c : Cfg) (ccmd : Word) : Bool := ccmd.getLsbD c.ccmdCbcBit

/-- The status register after a command is issued: the busy bits inverted (R273). -/
def fstatIssued (c : Cfg) (fstat : Byte) : Byte := fstat ^^^ c.fstatBusyMask

/-- The status register after the clear command: the busy bits 0 (R274). -/
def fstatCleared (c : Cfg) (fstat : Byte) : Byte := fstat &&& ~~~c.fstatBusyMask

/-- The status register after a read of it: the read-toggle bits inverted (R280). -/
def fstatRead (c : Cfg) (fstat : Byte) : Byte := fstat ^^^ c.fstatRdToggleMask

end Sys2Proof.Machine
end

