-- ==== Sys2Proof/Machine/Ops.lean ====
section
/-! DEFINITION. The named operations over the state that the meanings share: access to a channel or port by number,
the flash array and its address check, the ring buffer, the block cipher, the pin-state collaborator, and the
interrupt bridge, which stands in this block in the place of exceptions (R380 to R389, R404). -/

namespace Sys2Proof.Machine

/-! ## Channels and ports by number -/

/-- Timer channel `n`; a channel that is not there reads as one after reset (R169). -/
def State.timer (s : State) (n : Nat) : TimerCh := s.timers.getD n .reset

/-- Timer channel `n` replaced; no effect where there is none (R169). -/
def State.setTimer (s : State) (n : Nat) (t : TimerCh) : State := { s with timers := s.timers.set n t }

/-- Serial channel `ch`; a channel that is not there reads as one after reset (R169). -/
def State.serial (s : State) (ch : Nat) : SerialCh := s.serials.getD ch (.reset s.cfg)

/-- Serial channel `ch` replaced; no effect where there is none (R169). -/
def State.setSerial (s : State) (ch : Nat) (x : SerialCh) : State := { s with serials := s.serials.set ch x }

/-- GPIO port `p`; a port that is not there reads as one after reset (R169). -/
def State.port (s : State) (p : Nat) : GpioPort := s.ports.getD p .reset

/-- GPIO port `p` replaced; no effect where there is none (R169). -/
def State.setPort (s : State) (p : Nat) (x : GpioPort) : State := { s with ports := s.ports.set p x }

/-- The null collaborator's vectors of port `p`. -/
def State.pins (s : State) (p : Nat) : PinVec := s.collab.pins.getD p .reset

/-- The null collaborator's vectors of port `p` replaced. -/
def State.setPins (s : State) (p : Nat) (x : PinVec) : State :=
  { s with collab := { s.collab with pins := s.collab.pins.set p x } }

/-- The flash controller replaced. -/
def State.setFlash (s : State) (f : FlashCtl) : State := { s with flash := f }

/-- The cipher unit replaced. -/
def State.setCipher (s : State) (u : CipherUnit) : State := { s with cipher := u }

/-- The bus master is answered. -/
def State.respond (s : State) (r : Resp) : State := { s with resp := r }

/-- A write completes: it returns nothing (R161). -/
def finishWrite (s : State) : Result := .next (s.respond .done)

/-- A read completes with the register's value `r`, converted to the access width (R160, R88). -/
def finishRead (w : Width) (r : Word) (s : State) : Result := .next (s.respond (.data w (readValue w r)))

/-! ## The interrupt bridge -/

/-- The line ids of serial channel `ch`: none where the channel is not wired or its transport did not open (R220). -/
def linesOf (c : Cfg) (ch : Nat) : Option SerialLines :=
  if c.transportOk.getD ch false then c.serialLines.getD ch none else none

/-- The tx-empty line of channel `ch` (R220). -/
def txeLine (c : Cfg) (ch : Nat) : Option Nat := (linesOf c ch).map (·.txe)

/-- The tx-complete line of channel `ch` (R220). -/
def txcLine (c : Cfg) (ch : Nat) : Option Nat := (linesOf c ch).map (·.txc)

/-- The rx-ready line of channel `ch` (R220). -/
def rxrLine (c : Cfg) (ch : Nat) : Option Nat := (linesOf c ch).map (·.rxr)

/-- The line of timer channel `n` (R386). -/
def timerLineOf (c : Cfg) (n : Nat) : Option Nat := c.timerLine.getD n none

/-- The level of a line (R70). -/
def State.irqLevel (s : State) (l : Nat) : Bool := s.irqHigh.contains l

/-- A line added to the lines at level 1, which stay in rising order. -/
def raiseLine (l : Nat) : List Nat → List Nat
  | [] => [l]
  | h :: t => if l < h then l :: h :: t else if l = h then h :: t else h :: raiseLine l t

/-- A line taken from the lines at level 1. -/
def lowerLine (l : Nat) (hs : List Nat) : List Nat := hs.filter (fun h => h != l)

/-- `IrqAssert(l)`: the line at 1 and the event recorded; nothing for a line that is not wired (R381, R389). -/
def irqAssert (l : Option Nat) (s : State) : State :=
  match l with
  | none => s
  | some l => { s with irqHigh := raiseLine l s.irqHigh, hist := s.hist ++ [.assert l] }

/-- `IrqClear(l)`: the line at 0 and the event recorded; nothing for a line that is not wired (R382, R389). -/
def irqClear (l : Option Nat) (s : State) : State :=
  match l with
  | none => s
  | some l => { s with irqHigh := lowerLine l s.irqHigh, hist := s.hist ++ [.clear l] }

/-- `IrqPulse(l)`, with the interval label of a timer line: the line ends at 0 and one event is recorded; nothing
for a line that is not wired (R383, R389). -/
def irqPulse (l : Option Nat) (label : Option Nat) (s : State) : State :=
  match l with
  | none => s
  | some l => { s with irqHigh := lowerLine l s.irqHigh, hist := s.hist ++ [.pulse l label] }

/-! ## The flash array -/

/-- What an offset that the memory does not list reads as: the erased byte, which is CFG0's `FLASH_INIT` too (R10, R276). -/
def unlistedByte : Byte := 0x00

/-- The byte of the array at an offset. -/
def Memory.read : Memory → Nat → Byte
  | [], _ => unlistedByte
  | (k, b) :: m, o => if o = k then b else Memory.read m o

/-- The array with the byte at an offset replaced, in canonical form. -/
def Memory.write : Memory → Nat → Byte → Memory
  | [], o, b => if b = unlistedByte then [] else [(o, b)]
  | (k, x) :: m, o, b =>
    if o < k then (if b = unlistedByte then (k, x) :: m else (o, b) :: (k, x) :: m)
    else if o = k then (if b = unlistedByte then m else (o, b) :: m)
    else (k, x) :: Memory.write m o b

/-- The `n` bytes from offset `o` on replaced by 0x00 (the loop of R276). -/
def Memory.erase (m : Memory) (o : Nat) : Nat → Memory
  | 0 => m
  | n + 1 => Memory.erase (m.write o 0x00) (o + 1) n

/-- The canonical form: offsets strictly rising, no entry that reads as an unlisted one does. -/
def Memory.wf : Memory → Bool
  | [] => true
  | [(_, b)] => decide (b ≠ unlistedByte)
  | (k, b) :: (k', b') :: m => decide (k < k') && decide (b ≠ unlistedByte) && Memory.wf ((k', b') :: m)

/-- `FlashOff(a)`: the offset of a bus address inside the flash data window, if it is there (R262). -/
def flashOff (c : Cfg) (a : Word) : Option Nat :=
  if c.flashdBase ≤ a.toNat ∧ a.toNat < c.flashdBase + c.flashSize then some (a.toNat - c.flashdBase) else none

/-- The byte a read of the window sees at an offset: 0x00 past the end of the array (R91, R282). -/
def flashByte (s : State) (o : Nat) : Byte := if o < s.cfg.flashSize then s.flash.mem.read o else 0x00

/-- The bytes at the offsets from `o` on, `n` of them. -/
def flashBytes (s : State) (o : Nat) : Nat → List Byte
  | 0 => []
  | n + 1 => flashByte s o :: flashBytes s (o + 1) n

/-- Issuance of a command other than clear: the code is latched and the busy bits inverted (R273 `Issue`). -/
def issue (c : Cfg) (code : Byte) (f : FlashCtl) : FlashCtl :=
  { f with fcmd := code, fstat := fstatIssued c f.fstat }

/-! ## The ring buffer -/

/-- `PushByte`: the byte stored, and the oldest unread byte lost where the buffer is full (R230). -/
def pushByte (cap : Nat) (x : SerialCh) (b : Byte) : SerialCh :=
  let y := { x with rxBuf := x.rxBuf.set x.rxEnd b, rxEnd := (x.rxEnd + 1) % cap }
  if x.rxCount = cap then { y with rxStart := (x.rxStart + 1) % cap } else { y with rxCount := x.rxCount + 1 }

/-- The bytes of a chunk pushed in order (R236). -/
def pushChunk (cap : Nat) (x : SerialCh) (bs : List Byte) : SerialCh := bs.foldl (pushByte cap) x

/-- The oldest unread byte (R223). -/
def frontByte (x : SerialCh) : Byte := x.rxBuf.getD x.rxStart 0x00

/-- The oldest unread byte removed; the storage itself is not changed (R223). -/
def popByte (cap : Nat) (x : SerialCh) : SerialCh :=
  { x with rxStart := (x.rxStart + 1) % cap, rxCount := x.rxCount - 1 }

/-- `TxOut`: a byte handed to the transport (R14, R221). -/
def txOutByte (x : SerialCh) (b : Byte) : SerialCh := { x with txOut := x.txOut ++ [b] }

/-! ## The block cipher -/

/-- `BC_ENC` of the configuration (R11). -/
def bcEnc (c : Cfg) (key block : Quad) : Quad :=
  match c.blockCipher with
  | .uninterpreted => Config.bcEnc key block
  | .toyXor => quadXor block key

/-- `BC_DEC` of the configuration (R11). -/
def bcDec (c : Cfg) (key block : Quad) : Quad :=
  match c.blockCipher with
  | .uninterpreted => Config.bcDec key block
  | .toyXor => quadXor block key

/-- `Transform()`: one block, in the direction and mode the command register says (R323). -/
def transform (c : Cfg) (u : CipherUnit) : CipherUnit :=
  match cipherCbc c u.ccmd, cipherDecrypt c u.ccmd with
  | false, false => { u with cdout := bcEnc c u.ckey u.cdin }
  | false, true => { u with cdout := bcDec c u.ckey u.cdin }
  | true, false =>
    let out := bcEnc c u.ckey (quadXor u.cdin u.civ)
    { u with civ := out, cdout := out }
  | true, true => { u with civ := u.cdin, cdout := quadXor (bcDec c u.ckey u.cdin) u.civ }

/-! ## The pin-state collaborator -/

/-- The pin levels the null collaborator reports: an output pin its own output, an input pin the outside level (R352). -/
def pinLevels (x : PinVec) : Half := (x.dir &&& x.out) ||| (~~~x.dir &&& x.ext)

/-- `PinSet(p, dir, out)` (R352). -/
def pinSet (p : Nat) (dir out : Half) (s : State) : State :=
  match s.cfg.collab with
  | .null => s.setPins p { s.pins p with dir := dir, out := out }
  | .external => { s with collab := { s.collab with token := Config.extPinSet s.collab.token p dir out } }

/-- `PinGet(p)`: direction, output data and pin levels (R352). -/
def pinGet (s : State) (p : Nat) : Half × Half × Half :=
  match s.cfg.collab with
  | .null => ((s.pins p).dir, (s.pins p).out, pinLevels (s.pins p))
  | .external => Config.extPinGet s.collab.token p

/-! ## The timing agent's arming -/

/-- Whether the agent of an arming start comes into being: always, unless the configuration lets it fail; then it is
a free value (R191, log entry 7). -/
def spawn (s : State) : Bool × State :=
  if s.cfg.spawnMayFail then (Config.spawnSucceeds s.spawnCtr, { s with spawnCtr := s.spawnCtr + 1 }) else (true, s)

end Sys2Proof.Machine
end

