-- ==== Sys2Proof/Machine/Bus.lean ====
section
/-! DEFINITION. The operations of the dispatcher itself: accesses that reach no register (R163 to R166). They change
nothing of the block. -/

namespace Sys2Proof.Machine

/-- `NOREG.R.TIMER` (R164): a read inside a timer window, at no register, returns 0. -/
def execNoregRTimer (_addr : Nat) (w : Width) (s : State) : Result := finishRead w 0 s

/-- `NOREG.W.TIMER` (R165): a write inside a timer window, at no register, ignored. -/
def execNoregWTimer (_addr : Nat) (_w : Width) (_v : Word) (s : State) : Result := finishWrite s

/-- `NOREG.R.SERIAL` (R164): a read inside a serial window, at no register, returns 0. -/
def execNoregRSerial (_addr : Nat) (w : Width) (s : State) : Result := finishRead w 0 s

/-- `NOREG.W.SERIAL` (R165): a write inside a serial window, at no register, ignored. -/
def execNoregWSerial (_addr : Nat) (_w : Width) (_v : Word) (s : State) : Result := finishWrite s

/-- `NOREG.R.FLASHC` (R164): a read inside the flash controller window, at no register, returns 0. -/
def execNoregRFlashc (_addr : Nat) (w : Width) (s : State) : Result := finishRead w 0 s

/-- `NOREG.W.FLASHC` (R165): a write inside the flash controller window, at no register, ignored. -/
def execNoregWFlashc (_addr : Nat) (_w : Width) (_v : Word) (s : State) : Result := finishWrite s

/-- `NOREG.R.CIPHER` (R164): a read inside the cipher window, at no register, returns 0. -/
def execNoregRCipher (_addr : Nat) (w : Width) (s : State) : Result := finishRead w 0 s

/-- `NOREG.W.CIPHER` (R165): a write inside the cipher window, at no register, ignored. -/
def execNoregWCipher (_addr : Nat) (_w : Width) (_v : Word) (s : State) : Result := finishWrite s

/-- `NOREG.R.GPIO` (R164): a read inside the GPIO window, at no register, returns 0. -/
def execNoregRGpio (_addr : Nat) (w : Width) (s : State) : Result := finishRead w 0 s

/-- `NOREG.W.GPIO` (R165): a write inside the GPIO window, at no register, ignored. -/
def execNoregWGpio (_addr : Nat) (_w : Width) (_v : Word) (s : State) : Result := finishWrite s

/-- `UNMAPPED.R` (R163): a read outside every window, returns 0. -/
def execUnmappedR (_addr : Nat) (w : Width) (s : State) : Result := finishRead w 0 s

/-- `UNMAPPED.W` (R166): a write outside every window, ignored. -/
def execUnmappedW (_addr : Nat) (_w : Width) (_v : Word) (s : State) : Result := finishWrite s

end Sys2Proof.Machine
end

