-- ==== Sys2Proof/Machine/Cipher.lean ====
section
/-! DEFINITION. The cipher accelerator: twelve bus operations (R311 to R322). The transform itself is
`transform` of Ops.lean (R323). -/

namespace Sys2Proof.Machine

/-- `CCMD.W` (R311): the written bits are ORed in. -/
def execCcmdW (w : Width) (v : Word) (s : State) : Result :=
  finishWrite (s.setCipher { s.cipher with ccmd := s.cipher.ccmd ||| writeOperand 32 w v })

/-- `CCMD.R` (R312): the ready pattern, and the read-out index back to 0. -/
def execCcmdR (w : Width) (s : State) : Result :=
  finishRead w s.cfg.cipherReady (s.setCipher { s.cipher with outIdx := 0 })

/-- `CMODE.W` (R313): the value stored, the IV, its index and the command cleared. -/
def execCmodeW (w : Width) (v : Word) (s : State) : Result :=
  finishWrite (s.setCipher { s.cipher with cmode := writeOperand 32 w v, civ := .zero, ivIdx := 0, ccmd := 0 })

/-- `CMODE.R` (R314). -/
def execCmodeR (w : Width) (s : State) : Result := finishRead w s.cipher.cmode s

/-- `CKEY.W` (R315): the swapped word at the key's fill index. -/
def execCkeyW (w : Width) (v : Word) (s : State) : Result :=
  let u := s.cipher
  finishWrite (s.setCipher
    { u with ckey := quadSet u.ckey u.keyIdx (bswap32 (writeOperand 32 w v)), keyIdx := nextIdx u.keyIdx })

/-- `CKEY.R` (R316): 0. -/
def execCkeyR (w : Width) (s : State) : Result := finishRead w 0 s

/-- `CIV.W` (R317): the swapped word at the IV's fill index. -/
def execCivW (w : Width) (v : Word) (s : State) : Result :=
  let u := s.cipher
  finishWrite (s.setCipher
    { u with civ := quadSet u.civ u.ivIdx (bswap32 (writeOperand 32 w v)), ivIdx := nextIdx u.ivIdx })

/-- `CIV.R` (R318): 0. -/
def execCivR (w : Width) (s : State) : Result := finishRead w 0 s

/-- The unit after an input word: stored at its fill index, and the transform run on the fourth (R319). -/
def cipherInput (c : Cfg) (v : Word) (u : CipherUnit) : CipherUnit :=
  let u' := { u with cdin := quadSet u.cdin u.dinIdx (bswap32 v) }
  if u.dinIdx = 3 then { transform c u' with dinIdx := 0 } else { u' with dinIdx := nextIdx u.dinIdx }

/-- `CDIN.W` (R319). -/
def execCdinW (w : Width) (v : Word) (s : State) : Result :=
  finishWrite (s.setCipher (cipherInput s.cfg (writeOperand 32 w v) s.cipher))

/-- `CDIN.R` (R320): 0. -/
def execCdinR (w : Width) (s : State) : Result := finishRead w 0 s

/-- `CDOUT.R` (R321): the swapped output word at the read-out index, which advances. -/
def execCdoutR (w : Width) (s : State) : Result :=
  finishRead w (bswap32 (quadGet s.cipher.cdout s.cipher.outIdx))
    (s.setCipher { s.cipher with outIdx := nextIdx s.cipher.outIdx })

/-- `CDOUT.W` (R322): no effect. -/
def execCdoutW (_w : Width) (_v : Word) (s : State) : Result := finishWrite s

end Sys2Proof.Machine
end

