-- ==== Sys2Proof/Machine/Flash.lean ====
section
/-! DEFINITION. The flash controller and the flash data window: twenty bus operations (R263 to R283). A command is
carried out inside the write that issues it (R261). -/

namespace Sys2Proof.Machine

/-- `FSAH.W` (R263): the high half of the start latch; the low half stays. -/
def execFsahW (w : Width) (v : Word) (s : State) : Result :=
  finishWrite (s.setFlash { s.flash with fsa := joinHalves (writeOperand 16 w v) (lowHalf s.flash.fsa) })

/-- `FSAH.R` (R264). -/
def execFsahR (w : Width) (s : State) : Result := finishRead w ((highHalf s.flash.fsa).setWidth 32) s

/-- `FSAL.W` (R265): the low half of the start latch; the high half stays. -/
def execFsalW (w : Width) (v : Word) (s : State) : Result :=
  finishWrite (s.setFlash { s.flash with fsa := joinHalves (highHalf s.flash.fsa) (writeOperand 16 w v) })

/-- `FSAL.R` (R266). -/
def execFsalR (w : Width) (s : State) : Result := finishRead w ((lowHalf s.flash.fsa).setWidth 32) s

/-- `FEAH.W` (R267): the high half of the end latch; the low half stays. -/
def execFeahW (w : Width) (v : Word) (s : State) : Result :=
  finishWrite (s.setFlash { s.flash with fea := joinHalves (writeOperand 16 w v) (lowHalf s.flash.fea) })

/-- `FEAH.R` (R268). -/
def execFeahR (w : Width) (s : State) : Result := finishRead w ((highHalf s.flash.fea).setWidth 32) s

/-- `FEAL.W` (R269): the low half of the end latch; the high half stays. -/
def execFealW (w : Width) (v : Word) (s : State) : Result :=
  finishWrite (s.setFlash { s.flash with fea := joinHalves (highHalf s.flash.fea) (writeOperand 16 w v) })

/-- `FEAL.R` (R270). -/
def execFealR (w : Width) (s : State) : Result := finishRead w ((lowHalf s.flash.fea).setWidth 32) s

/-- `FWD.W` (R271). -/
def execFwdW (w : Width) (v : Word) (s : State) : Result :=
  finishWrite (s.setFlash { s.flash with fwd := writeOperand 8 w v })

/-- `FWD.R` (R272). -/
def execFwdR (w : Width) (s : State) : Result := finishRead w (s.flash.fwd.setWidth 32) s

/-- `FCMD.CLEAR` (R274): the clear code latched and the busy bits cleared. -/
def execFcmdClear (_w : Width) (_v : Word) (s : State) : Result :=
  finishWrite (s.setFlash { s.flash with fcmd := s.cfg.fcmdClear, fstat := fstatCleared s.cfg s.flash.fstat })

/-- The array after a write command: the data latch at the start address, where that is valid (R275). -/
def programmed (c : Cfg) (f : FlashCtl) : Memory :=
  match flashOff c f.fsa with
  | none => f.mem
  | some o => f.mem.write o f.fwd

/-- `FCMD.WRITE` (R275): issued, and one byte programmed. -/
def execFcmdWrite (_w : Width) (_v : Word) (s : State) : Result :=
  finishWrite (s.setFlash { issue s.cfg s.cfg.fcmdWrite s.flash with mem := programmed s.cfg s.flash })

/-- The array after an erase command: 0x00 from start to end, both included, where both are valid and in order (R276). -/
def erased (c : Cfg) (f : FlashCtl) : Memory :=
  match flashOff c f.fsa, flashOff c f.fea with
  | some s, some e => if s ≤ e then f.mem.erase s (e - s + 1) else f.mem
  | _, _ => f.mem

/-- `FCMD.ERASE` (R276): issued, and the range erased. -/
def execFcmdErase (_w : Width) (_v : Word) (s : State) : Result :=
  finishWrite (s.setFlash { issue s.cfg s.cfg.fcmdErase s.flash with mem := erased s.cfg s.flash })

/-- `FCMD.BLANK` (R277): issued, and nothing examined. -/
def execFcmdBlank (_w : Width) (_v : Word) (s : State) : Result :=
  finishWrite (s.setFlash (issue s.cfg s.cfg.fcmdBlank s.flash))

/-- `FCMD.OTHER` (R278): no effect. -/
def execFcmdOther (_w : Width) (_v : Word) (s : State) : Result := finishWrite s

/-- `FCMD.R` (R279): the last accepted code. -/
def execFcmdR (w : Width) (s : State) : Result := finishRead w (s.flash.fcmd.setWidth 32) s

/-- `FSTAT.R` (R280): the value before the read inverts its toggle bits. -/
def execFstatR (w : Width) (s : State) : Result :=
  finishRead w (s.flash.fstat.setWidth 32) (s.setFlash { s.flash with fstat := fstatRead s.cfg s.flash.fstat })

/-- `FSTAT.W` (R281): no effect. -/
def execFstatW (_w : Width) (_v : Word) (s : State) : Result := finishWrite s

/-- `FLASHD.R` (R282): `width` bytes from offset `o` on, in `BYTE_ORDER`. -/
def execFlashdR (o : Nat) (w : Width) (s : State) : Result :=
  finishRead w (assembleBytes s.cfg.byteOrder (flashBytes s o w.bytes)) s

/-- `FLASHD.W` (R283): no effect. -/
def execFlashdW (_o : Nat) (_w : Width) (_v : Word) (s : State) : Result := finishWrite s

end Sys2Proof.Machine
end

