-- ==== Sys2Proof/Machine/Gpio.lean ====
section
/-! DEFINITION. The GPIO ports: eight bus operations (R354 to R361) and the collaborator's own step (R353). -/

namespace Sys2Proof.Machine

/-- `GPIO.REJECT.R` (R354): 0; the collaborator is not called. -/
def execGpioRejectR (_addr : Nat) (w : Width) (s : State) : Result := finishRead w 0 s

/-- `GPIO.REJECT.W` (R355): no effect; the collaborator is not called. -/
def execGpioRejectW (_addr : Nat) (_w : Width) (_v : Word) (s : State) : Result := finishWrite s

/-- `PCTL.W` (R356): direction in bits 15:0, output data in bits 31:16, mirrored in the port and forwarded. -/
def execPctlW (p : Nat) (w : Width) (v : Word) (s : State) : Result :=
  let x := writeOperand 32 w v
  finishWrite (pinSet p (lowHalf x) (highHalf x)
    (s.setPort p { s.port p with pdr := lowHalf x, podr := highHalf x }))

/-- `PCTL.R` (R357): the collaborator's output data in bits 31:16 and direction in bits 15:0. -/
def execPctlR (p : Nat) (w : Width) (s : State) : Result :=
  let (d, o, _) := pinGet s p
  finishRead w (joinHalves o d) s

/-- `PIN.R` (R358): the collaborator's direction in bits 31:16 and pin levels in bits 15:0. -/
def execPinR (p : Nat) (w : Width) (s : State) : Result :=
  let (d, _, l) := pinGet s p
  finishRead w (joinHalves d l) s

/-- `PIN.W` (R359): no effect. -/
def execPinW (_p : Nat) (_w : Width) (_v : Word) (s : State) : Result := finishWrite s

/-- `PFS.W` (R360): the latch of one pin. -/
def execPfsW (p : Nat) (i : Fin 16) (w : Width) (v : Word) (s : State) : Result :=
  finishWrite (s.setPort p { s.port p with pfs := (s.port p).pfs.set i.val (writeOperand 8 w v) i.isLt })

/-- `PFS.R` (R361). -/
def execPfsR (p : Nat) (i : Fin 16) (w : Width) (s : State) : Result :=
  finishRead w (((s.port p).pfs[i.val]).setWidth 32) s

/-! ## The collaborator's own steps -/

/-- `PIN.OVERRIDE p` of the null collaborator (R353): each vector a new value or left as it is. -/
def envPinOverride (p : Nat) (dir out ext : Option Half) (s : State) : Result :=
  if decide (s.cfg.collab = .null) && decide (p < s.cfg.numPorts) then
    let x := s.pins p
    .next (s.setPins p ⟨dir.getD x.dir, out.getD x.out, ext.getD x.ext⟩)
  else .refused .notEnabled

/-- `PIN.OVERRIDE p` of an external collaborator (R352, R353): it moves to a state the environment chooses among those
its relation lets it move to. -/
def envPinOverrideExt (p : Nat) (token : Nat) (s : State) : Result :=
  if decide (s.cfg.collab = .external) && decide (p < s.cfg.numPorts) && Config.extMoves p s.collab.token token then
    .next { s with collab := { s.collab with token := token } }
  else .refused .notEnabled

end Sys2Proof.Machine
end

