-- ==== Sys2Proof/Machine/Serial.lean ====
section
/-! DEFINITION. The serial channel: its six bus operations (R221 to R226), the transport's delivery (R235) and the
two steps of the receive agent (R236, R237). -/

namespace Sys2Proof.Machine

/-- `STXD.W` (R221): latched, handed to the transport where it is open, and tx-empty asserted where `TXIE` is 1. -/
def execStxdW (ch : Nat) (w : Width) (v : Word) (s : State) : Result :=
  let b := writeOperand 8 w v
  let x := { s.serial ch with stxd := b }
  let y := if s.cfg.transportOk.getD ch false then txOutByte x b else x
  let s' := s.setSerial ch y
  finishWrite (if txie s.cfg x.sctl then irqAssert (txeLine s.cfg ch) s' else s')

/-- `STXD.R` (R222): the last byte written. -/
def execStxdR (ch : Nat) (w : Width) (s : State) : Result := finishRead w ((s.serial ch).stxd.setWidth 32) s

/-- The state a read of the receive-data register leaves (R223): nothing changed on an empty buffer; otherwise the
oldest byte gone, and rx-ready cleared where the buffer became empty. -/
def popSerial (ch : Nat) (s : State) : State :=
  let x := s.serial ch
  if x.rxCount = 0 then s
  else
    let y := popByte s.cfg.rxCap x
    let s' := s.setSerial ch y
    if y.rxCount = 0 then irqClear (rxrLine s.cfg ch) s' else s'

/-- The byte a read of the receive-data register returns: 0x00 on an empty buffer (R223). -/
def rxValue (x : SerialCh) : Byte := if x.rxCount = 0 then 0x00 else frontByte x

/-- `SRXD.R` (R223). -/
def execSrxdR (ch : Nat) (w : Width) (s : State) : Result :=
  finishRead w ((rxValue (s.serial ch)).setWidth 32) (popSerial ch s)

/-- `SRXD.W` (R224): no effect. -/
def execSrxdW (_ch : Nat) (_w : Width) (_v : Word) (s : State) : Result := finishWrite s

/-- `SCTL.W` (R225): all 16 bits stored, and one tx-complete pulse where `TXIE` goes from 1 to 0. -/
def execSctlW (ch : Nat) (w : Width) (v : Word) (s : State) : Result :=
  let x := s.serial ch
  let v16 := writeOperand 16 w v
  let s' := s.setSerial ch { x with sctl := v16 }
  finishWrite (if txie s.cfg x.sctl && !txie s.cfg v16 then irqPulse (txcLine s.cfg ch) none s' else s')

/-- `SCTL.R` (R226). -/
def execSctlR (ch : Nat) (w : Width) (s : State) : Result := finishRead w ((s.serial ch).sctl.setWidth 32) s

/-! ## The receive path -/

/-- `RX.DELIVER ch, bytes` (R235): bytes arrive from outside; enabled for a non-empty sequence where the transport
is open. -/
def envRxDeliver (ch : Nat) (bytes : List Byte) (s : State) : Result :=
  if s.cfg.transportOk.getD ch false && decide (bytes ≠ []) then
    .next (s.setSerial ch { s.serial ch with rxIn := (s.serial ch).rxIn ++ bytes })
  else .refused .notEnabled

/-- `RX.PUSH ch, k` is enabled (R236). -/
def rxPushEnabled (c : Cfg) (ch k : Nat) (x : SerialCh) : Bool :=
  c.transportOk.getD ch false && !x.rxPending && decide (1 ≤ k) && decide (k ≤ x.rxIn.length)

/-- `RX.PUSH ch, k` (R236): one chunk of `k` bytes into the ring buffer, and the assertion of rx-ready pending, or
made at once where `RX_ASSERT_ATOMIC`. -/
def agentRxPush (ch k : Nat) (s : State) : Result :=
  let x := s.serial ch
  if rxPushEnabled s.cfg ch k x then
    let y := pushChunk s.cfg.rxCap { x with rxIn := x.rxIn.drop k } (x.rxIn.take k)
    if s.cfg.rxAssertAtomic then .next (irqAssert (rxrLine s.cfg ch) (s.setSerial ch y))
    else .next (s.setSerial ch { y with rxPending := true })
  else .refused .notEnabled

/-- `RX.ASSERT ch` (R237), enabled when an assertion is pending. -/
def agentRxAssert (ch : Nat) (s : State) : Result :=
  if (s.serial ch).rxPending then
    .next (irqAssert (rxrLine s.cfg ch) (s.setSerial ch { s.serial ch with rxPending := false }))
  else .refused .notEnabled

end Sys2Proof.Machine
end

