-- ==== Sys2Proof/Machine/Timer.lean ====
section
/-! DEFINITION. The timer/counter channel: its eight bus operations (R181 to R189) and the two steps of its timing
agent (R196, R197). -/

namespace Sys2Proof.Machine

/-- `TCNT.W` (R181): the reload value, a written 0 stored as 0xFFFF. -/
def execTcntW (n : Nat) (w : Width) (v : Word) (s : State) : Result :=
  finishWrite (s.setTimer n { s.timer n with tcnt := storedReload (writeOperand 16 w v) })

/-- `TCNT.R` (R182): the stored reload value; nothing counts. -/
def execTcntR (n : Nat) (w : Width) (s : State) : Result := finishRead w ((s.timer n).tcnt.setWidth 32) s

/-- `TMOD.W` (R183): all 16 bits stored. -/
def execTmodW (n : Nat) (w : Width) (v : Word) (s : State) : Result :=
  finishWrite (s.setTimer n { s.timer n with tmod := writeOperand 16 w v })

/-- `TMOD.R` (R184). -/
def execTmodR (n : Nat) (w : Width) (s : State) : Result := finishRead w ((s.timer n).tmod.setWidth 32) s

/-- The state a start command leaves (R186): a pending stop withdrawn on a running channel; a reserved selector not
armed; otherwise armed, with an agent at its check where one came into being (R191). -/
def startTimer (n : Nat) (s : State) : State :=
  let t := s.timer n
  if t.running then s.setTimer n { t with stopReq := false }
  else if timerFreqValid s.cfg t.tmod then
    let (ok, s') := spawn s
    s'.setTimer n { t with running := true, stopReq := false, tphase := if ok then .check else .off }
  else s

/-- `TCTL.START` (R186). -/
def execTctlStart (n : Nat) (_w : Width) (_v : Word) (s : State) : Result := finishWrite (startTimer n s)

/-- `TCTL.STOP` (R187): the stop request latched on a running channel; the agent acts on it at its next check. -/
def execTctlStop (n : Nat) (_w : Width) (_v : Word) (s : State) : Result :=
  finishWrite (if (s.timer n).running then s.setTimer n { s.timer n with stopReq := true } else s)

/-- `TCTL.OTHER` (R188): no effect. -/
def execTctlOther (_n : Nat) (_w : Width) (_v : Word) (s : State) : Result := finishWrite s

/-- `TCTL.R` (R189): 0 in every state. -/
def execTctlR (_n : Nat) (w : Width) (s : State) : Result := finishRead w 0 s

/-! ## The timing agent -/

/-- A channel whose agent has ended (R196, R197). -/
def endedTimer (t : TimerCh) : TimerCh := { t with running := false, stopReq := false, tphase := .off }

/-- The channel after `T.CHECK` (R196). -/
def checkedTimer (c : Cfg) (t : TimerCh) : TimerCh :=
  if t.stopReq then endedTimer t
  else if timerFreqValid c t.tmod then { t with tphase := .sleep (timerIntervalUs c t.tcnt t.tmod) }
  else { t with running := false, tphase := .off }

/-- The channel after `T.EXPIRE` (R197): the repeat bit is read now. -/
def expiredTimer (c : Cfg) (t : TimerCh) : TimerCh :=
  if repeatMode c t.tmod then { t with tphase := .check } else endedTimer t

/-- `T.CHECK n` (R196), enabled when the agent is at its check. -/
def agentTCheck (n : Nat) (s : State) : Result :=
  match (s.timer n).tphase with
  | .check => .next (s.setTimer n (checkedTimer s.cfg (s.timer n)))
  | _ => .refused .notEnabled

/-- `T.EXPIRE n` (R197), enabled when the agent sleeps: one pulse with the interval's label. -/
def agentTExpire (n : Nat) (s : State) : Result :=
  match (s.timer n).tphase with
  | .sleep i =>
    .next ((irqPulse (timerLineOf s.cfg n) (some i) s).setTimer n (expiredTimer s.cfg (s.timer n)))
  | _ => .refused .notEnabled

end Sys2Proof.Machine
end

