-- ==== Sys2Proof/Machine/Dispatch.lean ====
section
/-! DEFINITION. Every bus operation to its meaning: one arm per row of spec/opcode_table.json. -/

namespace Sys2Proof.Machine

/-- The effect of a bus operation (R160, R161). -/
def exec (i : Instr) (s : State) : Host.Outcome State Fault Refusal :=
  match i with
  | .tcntW n w v => Sys2Proof.Machine.execTcntW n w v s
  | .tcntR n w => Sys2Proof.Machine.execTcntR n w s
  | .tmodW n w v => Sys2Proof.Machine.execTmodW n w v s
  | .tmodR n w => Sys2Proof.Machine.execTmodR n w s
  | .tctlStart n w v => Sys2Proof.Machine.execTctlStart n w v s
  | .tctlStop n w v => Sys2Proof.Machine.execTctlStop n w v s
  | .tctlOther n w v => Sys2Proof.Machine.execTctlOther n w v s
  | .tctlR n w => Sys2Proof.Machine.execTctlR n w s
  | .stxdW ch w v => Sys2Proof.Machine.execStxdW ch w v s
  | .stxdR ch w => Sys2Proof.Machine.execStxdR ch w s
  | .srxdR ch w => Sys2Proof.Machine.execSrxdR ch w s
  | .srxdW ch w v => Sys2Proof.Machine.execSrxdW ch w v s
  | .sctlW ch w v => Sys2Proof.Machine.execSctlW ch w v s
  | .sctlR ch w => Sys2Proof.Machine.execSctlR ch w s
  | .fsahW w v => Sys2Proof.Machine.execFsahW w v s
  | .fsahR w => Sys2Proof.Machine.execFsahR w s
  | .fsalW w v => Sys2Proof.Machine.execFsalW w v s
  | .fsalR w => Sys2Proof.Machine.execFsalR w s
  | .feahW w v => Sys2Proof.Machine.execFeahW w v s
  | .feahR w => Sys2Proof.Machine.execFeahR w s
  | .fealW w v => Sys2Proof.Machine.execFealW w v s
  | .fealR w => Sys2Proof.Machine.execFealR w s
  | .fwdW w v => Sys2Proof.Machine.execFwdW w v s
  | .fwdR w => Sys2Proof.Machine.execFwdR w s
  | .fcmdClear w v => Sys2Proof.Machine.execFcmdClear w v s
  | .fcmdWrite w v => Sys2Proof.Machine.execFcmdWrite w v s
  | .fcmdErase w v => Sys2Proof.Machine.execFcmdErase w v s
  | .fcmdBlank w v => Sys2Proof.Machine.execFcmdBlank w v s
  | .fcmdOther w v => Sys2Proof.Machine.execFcmdOther w v s
  | .fcmdR w => Sys2Proof.Machine.execFcmdR w s
  | .fstatR w => Sys2Proof.Machine.execFstatR w s
  | .fstatW w v => Sys2Proof.Machine.execFstatW w v s
  | .flashdR o w => Sys2Proof.Machine.execFlashdR o w s
  | .flashdW o w v => Sys2Proof.Machine.execFlashdW o w v s
  | .ccmdW w v => Sys2Proof.Machine.execCcmdW w v s
  | .ccmdR w => Sys2Proof.Machine.execCcmdR w s
  | .cmodeW w v => Sys2Proof.Machine.execCmodeW w v s
  | .cmodeR w => Sys2Proof.Machine.execCmodeR w s
  | .ckeyW w v => Sys2Proof.Machine.execCkeyW w v s
  | .ckeyR w => Sys2Proof.Machine.execCkeyR w s
  | .civW w v => Sys2Proof.Machine.execCivW w v s
  | .civR w => Sys2Proof.Machine.execCivR w s
  | .cdinW w v => Sys2Proof.Machine.execCdinW w v s
  | .cdinR w => Sys2Proof.Machine.execCdinR w s
  | .cdoutR w => Sys2Proof.Machine.execCdoutR w s
  | .cdoutW w v => Sys2Proof.Machine.execCdoutW w v s
  | .gpioRejectR addr w => Sys2Proof.Machine.execGpioRejectR addr w s
  | .gpioRejectW addr w v => Sys2Proof.Machine.execGpioRejectW addr w v s
  | .pctlW p w v => Sys2Proof.Machine.execPctlW p w v s
  | .pctlR p w => Sys2Proof.Machine.execPctlR p w s
  | .pinR p w => Sys2Proof.Machine.execPinR p w s
  | .pinW p w v => Sys2Proof.Machine.execPinW p w v s
  | .pfsW p pin w v => Sys2Proof.Machine.execPfsW p pin w v s
  | .pfsR p pin w => Sys2Proof.Machine.execPfsR p pin w s
  | .noregRTimer addr w => Sys2Proof.Machine.execNoregRTimer addr w s
  | .noregWTimer addr w v => Sys2Proof.Machine.execNoregWTimer addr w v s
  | .noregRSerial addr w => Sys2Proof.Machine.execNoregRSerial addr w s
  | .noregWSerial addr w v => Sys2Proof.Machine.execNoregWSerial addr w v s
  | .noregRFlashc addr w => Sys2Proof.Machine.execNoregRFlashc addr w s
  | .noregWFlashc addr w v => Sys2Proof.Machine.execNoregWFlashc addr w v s
  | .noregRCipher addr w => Sys2Proof.Machine.execNoregRCipher addr w s
  | .noregWCipher addr w v => Sys2Proof.Machine.execNoregWCipher addr w v s
  | .noregRGpio addr w => Sys2Proof.Machine.execNoregRGpio addr w s
  | .noregWGpio addr w v => Sys2Proof.Machine.execNoregWGpio addr w v s
  | .unmappedR addr w => Sys2Proof.Machine.execUnmappedR addr w s
  | .unmappedW addr w v => Sys2Proof.Machine.execUnmappedW addr w v s

end Sys2Proof.Machine
end

