-- ==== Sys2Proof/Machine/Actions.lean ====
section
/-! DEFINITION. One step of whoever is to move next: a bus access by the bus master, a step of a background agent, or
a step of the environment (R15, R135). -/

namespace Sys2Proof.Machine

/-- A bus access (R160, R161): the operation the transaction word decodes to, performed whole; a word whose width
is none of `WIDTHS`, as with `size` = 3, is refused (R82). -/
def busAccess (t : Txn) (s : State) : Result :=
  match decode s.cfg t with
  | none => .refused .notAnAccess
  | some i => exec i s

/-- `IRQ.SAMPLE` (R384): the interrupt consumer reads the levels and the history; no state of the block changes. -/
def envIrqSample (s : State) : Result := .next s

/-- The step of an action. -/
def perform (a : Action) (s : State) : Result :=
  match a with
  | .bus t => busAccess t s
  | .tCheck n => agentTCheck n s
  | .tExpire n => agentTExpire n s
  | .rxDeliver ch bytes => envRxDeliver ch bytes s
  | .rxPush ch k => agentRxPush ch k s
  | .rxAssert ch => agentRxAssert ch s
  | .pinOverride p dir out ext => envPinOverride p dir out ext s
  | .pinOverrideExt p token => envPinOverrideExt p token s
  | .irqSample => envIrqSample s

/-- The state with an action put before every other scheduled one. -/
def State.withAction (s : State) (a : Action) : State := { s with schedule := a :: s.schedule }

/-- The access to be taken next is the transaction word whose bits are `w`, those at and above `nbits` counting as 0
(R120). -/
def scheduleWord (s : State) (nbits w : Nat) : State := s.withAction (.bus (w % 2 ^ nbits))

end Sys2Proof.Machine
end

