-- ==== Sys2Proof/Machine/Step.lean ====
section
/-! DEFINITION. One step of the machine: the first scheduled action is taken off the schedule and performed (R15).
Where nothing is scheduled the state stays as it is (log entry 2). -/

namespace Sys2Proof.Machine

/-- One step. -/
def step (s : State) : Host.Outcome State Fault Refusal :=
  match s.schedule with
  | [] => .next s
  | a :: rest => perform a { s with schedule := rest }

/-- The state whose very next step is the bus access with the bits `w`. -/
def State.withFetchWord (s : State) (nbits w : Nat) : State := scheduleWord s nbits w

end Sys2Proof.Machine
end

