-- ==== Sys2Proof/Safety.lean ====
section
/-! DEFINITION. The terms the statements about runs are made in: sequences of bus operations and of steps, the
invariants the spec states (R31, R38, R49, R53, R61, R70), and what an operation belongs to (R18, R168). -/

namespace Sys2Proof.Machine

/-! ## Sequences -/

/-- Bus operations performed one after the other, with no step between them. -/
def execAll : List Instr → State → Result
  | [], s => .next s
  | i :: is, s =>
    match exec i s with
    | .next s' => execAll is s'
    | .fault r => .fault r
    | .refused r => .refused r

/-- `k` steps of the machine. -/
def stepN : Nat → State → Result
  | 0, s => .next s
  | k + 1, s =>
    match step s with
    | .next s' => stepN k s'
    | .fault r => .fault r
    | .refused r => .refused r

/-! ## Invariants -/

/-- R31: a channel that is not running has no agent and no stop request; a running one without an agent is the
armed-but-inert channel of R191, which only `SPAWN_MAY_FAIL` allows. -/
abbrev TimerOk (c : Cfg) (t : TimerCh) : Prop :=
  (t.running = false → t.tphase = .off ∧ t.stopReq = false) ∧
  (t.tphase ≠ .off → t.running = true) ∧
  (t.running = true → t.tphase = .off → c.spawnMayFail = true)

/-- R38, R35 to R37, R40, R41: the ring buffer's indices and count agree; an assertion is pending only between the
two steps of a receive agent that exists; a channel whose transport did not open has received and sent nothing. -/
abbrev SerialOk (c : Cfg) (ch : Nat) (x : SerialCh) : Prop :=
  x.rxBuf.length = c.rxCap ∧ x.rxStart < c.rxCap ∧ x.rxEnd < c.rxCap ∧ x.rxCount ≤ c.rxCap ∧
  x.rxEnd = (x.rxStart + x.rxCount) % c.rxCap ∧
  (x.rxPending = true → c.transportOk.getD ch false = true ∧ c.rxAssertAtomic = false) ∧
  (c.transportOk.getD ch false = false → x.rxIn = [] ∧ x.txOut = [] ∧ x.rxCount = 0)

/-- R48, R49, R53: the reset value or an accepted command code, no status bit outside the two masks, and the array in
canonical form inside its span. -/
abbrev FlashOk (c : Cfg) (f : FlashCtl) : Prop :=
  f.fcmd ∈ [0x00, c.fcmdClear, c.fcmdWrite, c.fcmdErase, c.fcmdBlank] ∧
  f.fstat &&& ~~~(c.fstatBusyMask ||| c.fstatRdToggleMask) = 0 ∧
  f.mem.wf = true ∧ ∀ x ∈ f.mem, x.1 < c.flashSize

/-- The line an event is on. -/
def Event.line : Event → Nat
  | .assert l => l
  | .clear l => l
  | .pulse l _ => l

/-- R70, R380: the lines at level 1, by rising id, and the lines of recorded events are lines of the line table. -/
abbrev LinesOk (s : State) : Prop :=
  s.irqHigh.Pairwise (· < ·) ∧ (∀ l ∈ s.irqHigh, l ∈ s.cfg.lineIds) ∧ ∀ e ∈ s.hist, e.line ∈ s.cfg.lineIds

/-- The invariant of the machine: a well-formed configuration (R12), one record per channel and port (R20), and each
unit's own invariant. -/
abbrev State.Inv (s : State) : Prop :=
  s.cfg.WF ∧
  s.timers.length = s.cfg.numTimer ∧ s.serials.length = s.cfg.numSerial ∧
  s.ports.length = s.cfg.numPorts ∧ s.collab.pins.length = s.cfg.numPorts ∧
  (∀ t ∈ s.timers, TimerOk s.cfg t) ∧
  (∀ ch, ch < s.cfg.numSerial → SerialOk s.cfg ch (s.serial ch)) ∧
  FlashOk s.cfg s.flash ∧ LinesOk s

/-- R241, R444: on a wired channel, unread bytes stand only under a raised rx-ready line or a pending assertion; and
where the push asserts at once, the line is up exactly while there are unread bytes. -/
abbrev RxReadyOk (s : State) : Prop :=
  ∀ ch l, ch < s.cfg.numSerial → rxrLine s.cfg ch = some l →
    (0 < (s.serial ch).rxCount → (s.serial ch).rxPending = true ∨ s.irqLevel l = true) ∧
    (s.cfg.rxAssertAtomic = true → (s.irqLevel l = true ↔ 0 < (s.serial ch).rxCount))

/-- The event is an assertion. -/
def Event.isAssert : Event → Bool
  | .assert _ => true
  | .clear _ => false
  | .pulse _ _ => false

/-- The level a history leaves a line at: 1 exactly where the last event on it is an assertion (R380 to R383). -/
def levelAfter (l : Nat) (h : List Event) : Bool :=
  h.foldl (fun level e => if e.line = l then e.isAssert else level) false

/-! ## What belongs to what -/

/-- The unit whose register or window an operation reaches; none for an operation that reaches no register. -/
def operationOwner : Instr → Option Owner
  | .tcntW n _ _ | .tcntR n _ | .tmodW n _ _ | .tmodR n _ => some (.timer n)
  | .tctlStart n _ _ | .tctlStop n _ _ | .tctlOther n _ _ | .tctlR n _ => some (.timer n)
  | .stxdW ch _ _ | .stxdR ch _ | .srxdR ch _ | .srxdW ch _ _ | .sctlW ch _ _ | .sctlR ch _ => some (.serial ch)
  | .fsahW _ _ | .fsahR _ | .fsalW _ _ | .fsalR _ | .feahW _ _ | .feahR _ | .fealW _ _ | .fealR _ => some .flashc
  | .fwdW _ _ | .fwdR _ | .fcmdClear _ _ | .fcmdWrite _ _ | .fcmdErase _ _ | .fcmdBlank _ _ => some .flashc
  | .fcmdOther _ _ | .fcmdR _ | .fstatR _ | .fstatW _ _ => some .flashc
  | .flashdR _ _ | .flashdW _ _ _ => some .flashd
  | .ccmdW _ _ | .ccmdR _ | .cmodeW _ _ | .cmodeR _ | .ckeyW _ _ | .ckeyR _ => some .cipher
  | .civW _ _ | .civR _ | .cdinW _ _ | .cdinR _ | .cdoutR _ | .cdoutW _ _ => some .cipher
  | .pctlW _ _ _ | .pctlR _ _ | .pinR _ _ | .pinW _ _ _ | .pfsW _ _ _ _ | .pfsR _ _ _ => some .gpio
  | .gpioRejectR _ _ | .gpioRejectW _ _ _ => none
  | .noregRTimer _ _ | .noregWTimer _ _ _ | .noregRSerial _ _ | .noregWSerial _ _ _ => none
  | .noregRFlashc _ _ | .noregWFlashc _ _ _ | .noregRCipher _ _ | .noregWCipher _ _ _ => none
  | .noregRGpio _ _ | .noregWGpio _ _ _ | .unmappedR _ _ | .unmappedW _ _ _ => none

/-- The operation an action performs, where it is a bus access of the configuration. -/
def Action.operation (c : Cfg) : Action → Option Instr
  | .bus t => decode c t
  | _ => none

/-- An action that writes a register of timer channel `n`. -/
abbrev Action.writesTimer (c : Cfg) (n : Nat) (a : Action) : Prop :=
  ∃ i, a.operation c = some i ∧ operationOwner i = some (.timer n) ∧ (i.access c).write = true

/-- An action that changes the direction or output data the null collaborator holds for port `p` (R362). -/
abbrev Action.drivesPort (c : Cfg) (p : Nat) (a : Action) : Prop :=
  (∃ w v, a.operation c = some (.pctlW p w v)) ∨
  (∃ dir out ext, a = .pinOverride p dir out ext ∧ (dir.isSome = true ∨ out.isSome = true))

/-! ## Views of a unit -/

/-- The unread bytes of a channel, oldest first (R38). -/
def unread (cap : Nat) (x : SerialCh) : List Byte :=
  (List.range x.rxCount).map fun k => x.rxBuf.getD ((x.rxStart + k) % cap) 0x00

/-- The last `cap` elements of a list. -/
def lastOnes {α : Type} (cap : Nat) (l : List α) : List α := l.drop (l.length - cap)

/-- The writes `CMODE`, `CKEY4`, `CIV4`, `CCMD`, `CDIN4` of a cipher session (R324, R139). -/
def cipherSession (mode cmd : Word) (key iv block : Quad) : List Instr :=
  [.cmodeW .b4 mode,
   .ckeyW .b4 key.w0, .ckeyW .b4 key.w1, .ckeyW .b4 key.w2, .ckeyW .b4 key.w3,
   .civW .b4 iv.w0, .civW .b4 iv.w1, .civW .b4 iv.w2, .civW .b4 iv.w3,
   .ccmdW .b4 cmd,
   .cdinW .b4 block.w0, .cdinW .b4 block.w1, .cdinW .b4 block.w2, .cdinW .b4 block.w3]

/-- The first `k` words of a read-out: a read of `CCMD`, then `k` reads of `CDOUT` (R139 `CDOUT4`). -/
def readOut (k : Nat) : List Instr := .ccmdR .b4 :: List.replicate k (.cdoutR .b4)

/-- The read-out of the unit returns the four words of `q`, in order. -/
abbrev ReadsOut (s : State) (q : Quad) : Prop :=
  ∀ j : Fin 4, ∃ u, execAll (readOut (j.val + 1)) s = .next u ∧ u.resp = .data .b4 (quadGet q j)

/-- `FSTART a` (R139). -/
def flashStart (a : Word) : List Instr :=
  [.fsahW .b2 ((highHalf a).setWidth 32), .fsalW .b2 ((lowHalf a).setWidth 32)]

/-- `FEND a` (R139). -/
def flashEnd (a : Word) : List Instr :=
  [.feahW .b2 ((highHalf a).setWidth 32), .fealW .b2 ((lowHalf a).setWidth 32)]

/-- `FPROG a, b` (R139), with the configuration's command codes. -/
def flashProg (c : Cfg) (a : Word) (b : Byte) : List Instr :=
  flashStart a ++
    [.fwdW .b1 (b.setWidth 32), .fcmdWrite .b1 (c.fcmdWrite.setWidth 32), .fcmdClear .b1 (c.fcmdClear.setWidth 32)]

/-- `FERASE a, b` (R139), with the configuration's command codes. -/
def flashErase (c : Cfg) (a b : Word) : List Instr :=
  flashStart a ++ flashEnd b ++
    [.fcmdErase .b1 (c.fcmdErase.setWidth 32), .fcmdClear .b1 (c.fcmdClear.setWidth 32)]

end Sys2Proof.Machine
end

