-- ==== Sys2Proof/Certificates/Slice0/Obligations.lean ====
section
/-! DEFINITION. The statements for the provers. An equation `exec … = .next (…)` gives the WHOLE next state: every
register, line, stream and byte of the flash array that it does not name is as before, and the operation completes.
`respond` writes only the model's own field that holds what the bus master gets back (log entry 5).
A rule that carries one of the spec's own decisions D<n> is formalised as the spec states it: log entry 17. -/

open Sys2Proof Sys2Proof.Machine

/-! ## Encoding and decoding -/

/-- R120, R123, R132: in every well-formed configuration, decoding the transaction word of a well-formed bus operation
gives that operation, for every operand value the encoding admits. The layout of the word with `ADDR_BITS` other than 32
is the model's choice (log entry 19). -/
def Obligations.DecodeEncodeRoundTrip : Prop :=
  ∀ (c : Cfg) (i : Instr), c.WF → i.WF c → decode c (encode c i) = some i

/-- R123, R131: every access decodes to a well-formed operation, and that operation is the access: its direction, width,
address and canonical data are all kept. (The layout with `ADDR_BITS` other than 32: the model's choice, log entry 19.) -/
def Obligations.DecodedOperationIsTheAccess : Prop :=
  ∀ (c : Cfg) (t : Txn) (a : Access), c.WF → accessOfTxn c t = some a →
    decode c t = some (decodeAccess c a) ∧ (decodeAccess c a).WF c ∧ (decodeAccess c a).access c = a

/-- R82, R121, R123, R131: a transaction word is refused exactly where its width is none of `WIDTHS`, at CFG0 exactly where
`size` = 3, and the machine's step refuses it there. Where `size` stands with `ADDR_BITS` other than 32 is the model's
choice (log entry 19). -/
def Obligations.OnlyWidthsOutsideTheListAreRefused : Prop :=
  (∀ t : BitVec 67, decode cfg0 t.toNat = none ↔ t.extractLsb' 64 2 = 3) ∧
  ∀ (c : Cfg) (t : Txn), t < 2 ^ c.txnBits →
    (decode c t = none ↔ ∀ w ∈ c.widths, widthOfSize (txnSize c t) ≠ some w) ∧
    (txnSize c t = 3 → decode c t = none) ∧
    ∀ (s : State) (rest : List Action), s.cfg = c → s.schedule = .bus t :: rest → decode c t = none →
      step s = .refused .notAnAccess

/-- R133: at CFG0, the operation a word decodes to is the first row of the decode table that the word selects. -/
def Obligations.DecodeAgreesWithOpcodeTable : Prop :=
  ∀ t : BitVec 67, t.extractLsb' 64 2 ≠ 3 →
    (decode cfg0 t.toNat).map Instr.mnemonic = (tableRow t).map (·.mnemonic)

/-- R167: which operation an access is, and whose, depends on direction, address and the low data byte alone.
(The layout with `ADDR_BITS` other than 32: the model's choice, log entry 19.) -/
def Obligations.DecodeDependsOnDirectionAddressLowByte : Prop :=
  ∀ (c : Cfg) (t t' : Txn) (i i' : Instr), decode c t = some i → decode c t' = some i' →
    txnWrite c t = txnWrite c t' → txnAddr c t = txnAddr c t' →
    (txnData t).setWidth 8 = (txnData t').setWidth 8 →
    i.mnemonic = i'.mnemonic ∧ operationOwner i = operationOwner i'

/-- Words the spec writes out (V3, V9, V14, V15, V16, V25, V35, V41, V47, V52, V53) decode to the operations it names. -/
def Obligations.WordsOfTheSpecDecode : Prop :=
  decodeTableWord 72 0x04000000100000000 = some (.noregRTimer 0x40000001 .b1) ∧
  decodeTableWord 72 0x24000420000000000 = some (.unmappedR 0x40004200 .b4) ∧
  decodeTableWord 72 0x44000000412345601 = some (.tctlStart 0 .b1 0x01) ∧
  decodeTableWord 72 0x44000002000000034 = some (.tcntW 2 .b1 0x34) ∧
  decodeTableWord 72 0x54000000200000011 = some (.tmodW 0 .b2 0x0011) ∧
  decodeTableWord 72 0x4400010000000004F = some (.stxdW 0 .b1 0x4F) ∧
  decodeTableWord 72 0x44000200000000001 = some (.fcmdWrite .b1 0x01) ∧
  decodeTableWord 72 0x140100FFD00000000 = some (.flashdR 0xFFD .b2) ∧
  decodeTableWord 72 0x640003010FFEEDDCC = some (.cdinW .b4 0xFFEEDDCC) ∧
  decodeTableWord 72 0x0400041FF00000000 = some (.gpioRejectR 0x400041FF .b1) ∧
  decodeTableWord 72 0x4400040FF000000C3 = some (.pfsW 7 15 .b1 0xC3)

/-! ## The step, reset, and the invariant -/

/-- R15, R5: a scheduled bus access runs the operation its word decodes to, on the state with that access taken off the
schedule; every scheduled action is performed so; with nothing scheduled the state stays (the model's choice, log
entry 2). -/
def Obligations.StepPerformsTheScheduledAction : Prop :=
  (∀ (s : State) (t : Txn) (rest : List Action) (i : Instr), s.schedule = .bus t :: rest → decode s.cfg t = some i →
    step s = exec i { s with schedule := rest }) ∧
  (∀ (s : State) (a : Action) (rest : List Action), s.schedule = a :: rest →
    step s = perform a { s with schedule := rest }) ∧
  ∀ s : State, s.schedule = [] → step s = .next s

/-- The invariant of the machine (R12, R20, R31, R38, R48, R49, R53, R70) is kept by every step of whoever moves. -/
def Obligations.StepKeepsInvariant : Prop :=
  ∀ s s' : State, s.Inv → step s = .next s' → s'.Inv

/-- R241, R444: every step keeps the relation between unread bytes, a pending assertion and the rx-ready line. -/
def Obligations.StepKeepsRxReadyRelation : Prop :=
  ∀ s s' : State, s.Inv → RxReadyOk s → step s = .next s' → RxReadyOk s'

/-- The initial state of every well-formed configuration meets both invariants. -/
def Obligations.InitialStateMeetsInvariants : Prop :=
  (∀ c : Cfg, c.WF → (State.init c).Inv ∧ RxReadyOk (State.init c)) ∧ cfg0.WF ∧ State.reset = State.init cfg0

/-- R76, R430: the value of every piece of state after reset. That the command register is 0x00 also where `FCMD_CLEAR` is
another code is the model's reading (log entry 21). -/
def Obligations.ResetTable : Prop :=
  (∀ c : Cfg,
    (∀ n, n < c.numTimer → (State.init c).timers[n]? = some ⟨0x0000, 0x0000, false, false, .off⟩) ∧
    (∀ ch, ch < c.numSerial → ∃ x, (State.init c).serials[ch]? = some x ∧
      x.stxd = 0x00 ∧ x.sctl = 0x0000 ∧ (∀ k, k < c.rxCap → x.rxBuf[k]? = some 0x00) ∧
      x.rxStart = 0 ∧ x.rxEnd = 0 ∧ x.rxCount = 0 ∧ x.rxPending = false ∧ x.rxIn = [] ∧ x.txOut = []) ∧
    (State.init c).flash.fcmd = 0x00 ∧ (State.init c).flash.fstat = 0x00 ∧
    (State.init c).flash.fsa = 0 ∧ (State.init c).flash.fea = 0 ∧ (State.init c).flash.fwd = 0x00 ∧
    (State.init c).flash.mem = c.flashInit ∧
    (State.init c).cipher = ⟨0, 0, ⟨0, 0, 0, 0⟩, ⟨0, 0, 0, 0⟩, ⟨0, 0, 0, 0⟩, ⟨0, 0, 0, 0⟩, 0, 0, 0, 0⟩ ∧
    (∀ p, p < c.numPorts → ∃ x, (State.init c).ports[p]? = some x ∧ x.podr = 0x0000 ∧ x.pdr = 0x0000 ∧
      ∀ i : Fin 16, x.pfs[i.val] = 0x00) ∧
    (∀ p, p < c.numPorts → (State.init c).collab.pins[p]? = some ⟨0x0000, 0x0000, 0x0000⟩) ∧
    (∀ l, (State.init c).irqLevel l = false) ∧ (State.init c).hist = []) ∧
  (∀ o, flashByte State.reset o = 0x00) ∧ State.reset.flash.fcmd = 0x00

/-- R434: a well-formed configuration starts from its one initial state; any other is refused. Well-formedness is that
of R12; the clauses of log entry 4, the window of an absent cipher unit (log entry 6) and the bound of the flash window
(log entry 20) are the model's choice. -/
def Obligations.IllFormedConfigurationRefused : Prop :=
  ∀ c : Cfg, (c.WF → State.boot c = .next (.init c)) ∧ (¬ c.WF → State.boot c = .refused .badConfiguration)

/-! ## Rules of the whole machine -/

/-- R400, R160, R161: every bus operation completes in every state, a write returning nothing, a read a value of the
access width. -/
def Obligations.EveryOperationCompletes : Prop :=
  ∀ (i : Instr) (s : State), ∃ t, exec i s = .next t ∧
    ((i.access s.cfg).write = true → t.resp = .done) ∧
    ((i.access s.cfg).write = false → ∃ v, t.resp = .data (i.access s.cfg).width v ∧
      v.toNat < 2 ^ (8 * (i.access s.cfg).width.bytes))

/-- R380 to R383: the line levels are the summary of the event history, at reset and after every step. -/
def Obligations.LineLevelsSummarizeHistory : Prop :=
  (∀ (s s' : State), (∀ l, s.irqLevel l = levelAfter l s.hist) → step s = .next s' →
    ∀ l, s'.irqLevel l = levelAfter l s'.hist) ∧
  ∀ (c : Cfg) (l : Nat), (State.init c).irqLevel l = levelAfter l (State.init c).hist

/-- R385, which the spec marks as derived: a step appends at most one event, and only the named steps touch the levels
or the history. -/
def Obligations.AtMostOneLineEventPerStep : Prop :=
  ∀ s s' : State, step s = .next s' →
    (s'.hist = s.hist ∧ s'.irqHigh = s.irqHigh) ∨
    ∃ (e : Event) (a : Action) (rest : List Action),
      s'.hist = s.hist ++ [e] ∧ s.schedule = a :: rest ∧
      ((∃ n, a = .tExpire n) ∨ (∃ ch, a = .rxAssert ch) ∨
       (∃ ch k, a = .rxPush ch k ∧ s.cfg.rxAssertAtomic = true) ∨
       (∃ ch w v, a.operation s.cfg = some (.stxdW ch w v)) ∨
       (∃ ch w, a.operation s.cfg = some (.srxdR ch w)) ∨
       (∃ ch w v, a.operation s.cfg = some (.sctlW ch w v)))

/-- R388: once a transmit line is at 1 no step takes it to 0, and only a `STXD` write with `TXIE` set takes it to 1. -/
def Obligations.TransmitLineNeverCleared : Prop :=
  ∀ (s s' : State) (ch l : Nat), s.Inv → ch < s.cfg.numSerial → txeLine s.cfg ch = some l → step s = .next s' →
    (s.irqLevel l = true → s'.irqLevel l = true) ∧
    (s.irqLevel l = false → s'.irqLevel l = true →
      txie s.cfg (s.serial ch).sctl = true ∧
      ∃ a rest w v, s.schedule = a :: rest ∧ a.operation s.cfg = some (.stxdW ch w v))

/-- R28: `running` goes from 1 to 0 only by a step of the channel's timing agent, and from 0 to 1 only by a start
write to the channel. -/
def Obligations.RunningFlagTransitions : Prop :=
  ∀ (s s' : State) (n : Nat), step s = .next s' →
    ((s.timer n).running = true → (s'.timer n).running = false →
      ∃ rest, s.schedule = .tCheck n :: rest ∨ s.schedule = .tExpire n :: rest) ∧
    ((s.timer n).running = false → (s'.timer n).running = true →
      ∃ a rest w v, s.schedule = a :: rest ∧ a.operation s.cfg = some (.tctlStart n w v))

/-- R53, R48: the backing array changes only by a write or erase command, and the command register only by one of the four
commands, to that command's code. -/
def Obligations.FlashArrayChangesOnlyByCommands : Prop :=
  ∀ s s' : State, step s = .next s' →
    (s'.flash.mem = s.flash.mem ∨
      ∃ a rest w v, s.schedule = a :: rest ∧
        (a.operation s.cfg = some (.fcmdWrite w v) ∨ a.operation s.cfg = some (.fcmdErase w v))) ∧
    (s'.flash.fcmd = s.flash.fcmd ∨
      ∃ a rest w v, s.schedule = a :: rest ∧
        ((a.operation s.cfg = some (.fcmdClear w v) ∧ s'.flash.fcmd = s.cfg.fcmdClear) ∨
         (a.operation s.cfg = some (.fcmdWrite w v) ∧ s'.flash.fcmd = s.cfg.fcmdWrite) ∨
         (a.operation s.cfg = some (.fcmdErase w v) ∧ s'.flash.fcmd = s.cfg.fcmdErase) ∨
         (a.operation s.cfg = some (.fcmdBlank w v) ∧ s'.flash.fcmd = s.cfg.fcmdBlank)))

/-- R47, R71: the transmitted stream of a channel and the event history are append-only; only a `STXD` write to the
channel adds to the stream, one byte. -/
def Obligations.StreamsOnlyGrow : Prop :=
  ∀ s s' : State, step s = .next s' →
    (∃ es, s'.hist = s.hist ++ es) ∧
    ∀ ch, (s'.serial ch).txOut = (s.serial ch).txOut ∨
      ∃ b a rest w v, (s'.serial ch).txOut = (s.serial ch).txOut ++ [b] ∧
        s.schedule = a :: rest ∧ a.operation s.cfg = some (.stxdW ch w v)

/-- R168, R104, the first marked as derived: a bus operation changes state of its own unit and channel only, and
levels and events of lines of its own channel only; an operation that reaches no register changes nothing of the
block. -/
def Obligations.OperationTouchesOnlyItsOwner : Prop :=
  ∀ (i : Instr) (s t : State), exec i s = .next t →
    (∀ n, operationOwner i ≠ some (.timer n) → t.timers[n]? = s.timers[n]?) ∧
    (∀ ch, operationOwner i ≠ some (.serial ch) → t.serials[ch]? = s.serials[ch]?) ∧
    (operationOwner i ≠ some .flashc → t.flash = s.flash) ∧
    (operationOwner i ≠ some .cipher → t.cipher = s.cipher) ∧
    (operationOwner i ≠ some .gpio → t.ports = s.ports ∧ t.collab = s.collab) ∧
    ((∀ ch, operationOwner i ≠ some (.serial ch)) → t.irqHigh = s.irqHigh ∧ t.hist = s.hist) ∧
    (∀ ch, operationOwner i = some (.serial ch) →
      (∀ l, t.irqLevel l ≠ s.irqLevel l →
        txeLine s.cfg ch = some l ∨ txcLine s.cfg ch = some l ∨ rxrLine s.cfg ch = some l) ∧
      ∃ es, t.hist = s.hist ++ es ∧ ∀ e ∈ es,
        txeLine s.cfg ch = some e.line ∨ txcLine s.cfg ch = some e.line ∨ rxrLine s.cfg ch = some e.line) ∧
    (operationOwner i = none → t = s.respond t.resp)

/-- R105, R20: no step of an agent or of the environment touches the flash controller, the cipher unit or the ports,
or answers the bus master; no step changes the configuration; and each step takes one action off the schedule (the
configuration and the schedule in the state are the model's choice, log entries 1 and 2). -/
def Obligations.AgentsLeaveFlashCipherPortsAlone : Prop :=
  ∀ s s' : State, step s = .next s' →
    s'.cfg = s.cfg ∧ s'.schedule = s.schedule.tail ∧
    ((∀ t rest, s.schedule ≠ .bus t :: rest) →
      s'.flash = s.flash ∧ s'.cipher = s.cipher ∧ s'.ports = s.ports ∧ s'.resp = s.resp)

/-! ## Timer -/

/-- R181, R183: a write of the reload register stores 0 as 0xFFFF and any other value as it is; a write of the mode
register stores all 16 bits; the value is the access value truncated or zero-extended to 16 bits (R87). -/
def Obligations.TimerLatchWrites : Prop :=
  ∀ (n : Nat) (w : Width) (v : Word) (s : State),
    exec (.tcntW n w v) s = .next ((s.setTimer n { s.timer n with
      tcnt := if (canonicalData w v).setWidth 16 = (0 : Half) then 0xFFFF else (canonicalData w v).setWidth 16 }).respond
        .done) ∧
    exec (.tmodW n w v) s =
      .next ((s.setTimer n { s.timer n with tmod := (canonicalData w v).setWidth 16 }).respond .done)

/-- R182, R184, R189: the timer registers read back as stored, `TCTL` as 0, at every width (R88), without side effect. -/
def Obligations.TimerReads : Prop :=
  ∀ (n : Nat) (w : Width) (s : State),
    exec (.tcntR n w) s = .next (s.respond (.data w (canonicalData w ((s.timer n).tcnt.setWidth 32)))) ∧
    exec (.tmodR n w) s = .next (s.respond (.data w (canonicalData w ((s.timer n).tmod.setWidth 32)))) ∧
    exec (.tctlR n w) s = .next (s.respond (.data w 0))

/-- R181, R182, R183, R184: what was written is read back, 0 as 0xFFFF, and no other channel has changed. -/
def Obligations.TimerLatchesReadBack : Prop :=
  ∀ (n : Nat) (w w' : Width) (v : Word) (s : State), n < s.timers.length →
    (∃ t, execAll [.tcntW n w v, .tcntR n w'] s = .next t ∧
      t.resp = .data w' (canonicalData w' (if (canonicalData w v).toNat % 65536 = 0 then 0xFFFF
        else ((canonicalData w v).setWidth 16).setWidth 32)) ∧
      ∀ m, m ≠ n → t.timers[m]? = s.timers[m]?) ∧
    (∃ t, execAll [.tmodW n w v, .tmodR n w'] s = .next t ∧
      t.resp = .data w' (canonicalData w' (((canonicalData w v).setWidth 16).setWidth 32)) ∧
      ∀ m, m ≠ n → t.timers[m]? = s.timers[m]?)

/-- R185, R451: at CFG0 the interval of a valid selector is the reload times the divisor in microseconds, a reload of 0
counting as 65535, from 1 to 2097120; selectors 6 and 7 are reserved and the others divide by 1 to 32. -/
def Obligations.IntervalAtDefaultConfiguration : Prop :=
  ∀ tcnt tmod : Half,
    (timerFreqValid cfg0 tmod = true ↔ tmod.extractLsb' 4 3 ≠ 6 ∧ tmod.extractLsb' 4 3 ≠ 7) ∧
    (timerFreqValid cfg0 tmod = true →
      timerIntervalUs cfg0 tcnt tmod =
        (if tcnt = 0 then 65535 else tcnt.toNat) * 2 ^ (tmod.extractLsb' 4 3).toNat ∧
      1 ≤ timerIntervalUs cfg0 tcnt tmod ∧ timerIntervalUs cfg0 tcnt tmod ≤ 2097120)

/-- R186, R191: what a start command does: it withdraws a pending stop on a running channel, does not arm a reserved
selector, and otherwise arms the channel; the agent comes into being unless the configuration lets that fail, and then
a free value taken by a counter decides, which is the model's choice (log entry 7). -/
def Obligations.StartCommand : Prop :=
  ∀ (n : Nat) (w : Width) (v : Word) (s : State),
    ((s.timer n).running = true →
      exec (.tctlStart n w v) s = .next ((s.setTimer n { s.timer n with stopReq := false }).respond .done)) ∧
    ((s.timer n).running = false → timerDiv s.cfg (s.timer n).tmod = 0 →
      exec (.tctlStart n w v) s = .next (s.respond .done)) ∧
    ((s.timer n).running = false → timerDiv s.cfg (s.timer n).tmod ≠ 0 → s.cfg.spawnMayFail = false →
      exec (.tctlStart n w v) s = .next ((s.setTimer n
        { s.timer n with running := true, stopReq := false, tphase := .check }).respond .done)) ∧
    ((s.timer n).running = false → timerDiv s.cfg (s.timer n).tmod ≠ 0 → s.cfg.spawnMayFail = true →
      exec (.tctlStart n w v) s = .next (({ s with spawnCtr := s.spawnCtr + 1 }.setTimer n
        { s.timer n with
          running := true, stopReq := false,
          tphase := if Config.spawnSucceeds s.spawnCtr then .check else .off }).respond .done))

/-- R187, R188: a stop command sets only the stop request, and only on a running channel; any other value does nothing. -/
def Obligations.StopAndOtherCommands : Prop :=
  ∀ (n : Nat) (w : Width) (v : Word) (s : State),
    ((s.timer n).running = true →
      exec (.tctlStop n w v) s = .next ((s.setTimer n { s.timer n with stopReq := true }).respond .done)) ∧
    ((s.timer n).running = false → exec (.tctlStop n w v) s = .next (s.respond .done)) ∧
    exec (.tctlOther n w v) s = .next (s.respond .done)

/-- R190: stop then start on a running channel leaves it running with no stop request, and the agent where it was. -/
def Obligations.StopThenStartGoesOn : Prop :=
  ∀ (n : Nat) (w w' : Width) (v v' : Word) (s : State), n < s.timers.length → (s.timer n).running = true →
    ∃ t, execAll [.tctlStop n w v, .tctlStart n w' v'] s = .next t ∧
      (t.timer n).running = true ∧ (t.timer n).stopReq = false ∧ (t.timer n).tphase = (s.timer n).tphase ∧
      (t.timer n).tcnt = (s.timer n).tcnt ∧ (t.timer n).tmod = (s.timer n).tmod ∧ t.hist = s.hist ∧
      ∀ m, m ≠ n → t.timers[m]? = s.timers[m]?

/-- R196, R197: the two steps of a timing agent, each where it is enabled; that a step scheduled where it is not enabled
is refused is the model's choice (log entry 11). -/
def Obligations.TimingAgentSteps : Prop :=
  ∀ (n : Nat) (s : State),
    ((s.timer n).tphase = .check → (s.timer n).stopReq = true →
      agentTCheck n s =
        .next (s.setTimer n { s.timer n with running := false, stopReq := false, tphase := .off })) ∧
    ((s.timer n).tphase = .check → (s.timer n).stopReq = false → timerDiv s.cfg (s.timer n).tmod = 0 →
      agentTCheck n s = .next (s.setTimer n { s.timer n with running := false, tphase := .off })) ∧
    ((s.timer n).tphase = .check → (s.timer n).stopReq = false → timerDiv s.cfg (s.timer n).tmod ≠ 0 →
      agentTCheck n s = .next (s.setTimer n
        { s.timer n with tphase := .sleep (timerIntervalUs s.cfg (s.timer n).tcnt (s.timer n).tmod) })) ∧
    ((s.timer n).tphase ≠ .check → agentTCheck n s = .refused .notEnabled) ∧
    (∀ i, (s.timer n).tphase = .sleep i → repeatMode s.cfg (s.timer n).tmod = true →
      agentTExpire n s = .next ((irqPulse (timerLineOf s.cfg n) (some i) s).setTimer n
        { s.timer n with tphase := .check })) ∧
    (∀ i, (s.timer n).tphase = .sleep i → repeatMode s.cfg (s.timer n).tmod = false →
      agentTExpire n s = .next ((irqPulse (timerLineOf s.cfg n) (some i) s).setTimer n
        { s.timer n with running := false, stopReq := false, tphase := .off })) ∧
    ((∀ i, (s.timer n).tphase ≠ .sleep i) → agentTExpire n s = .refused .notEnabled)

/-- R200, which the spec marks as derived: after `TCNT.W`, `TMOD.W` with a valid selector and `TCTL.START` on an idle
wired channel, with no later write to the channel, whatever steps follow and in whatever order, every event on the
channel's line is the pulse labelled with the interval of the written values; and the agent's two steps produce it. -/
def Obligations.TimerEventsCarryTheInterval : Prop :=
  ∀ (s s1 s2 : State) (n l k : Nat) (w1 w2 w3 : Width) (v m x : Word),
    s.Inv → n < s.cfg.numTimer → timerLineOf s.cfg n = some l → (s.timer n).running = false →
    timerFreqValid s.cfg (writeOperand 16 w2 m) = true →
    execAll [.tcntW n w1 v, .tmodW n w2 m, .tctlStart n w3 x] s = .next s1 →
    (∀ a ∈ s1.schedule, ¬ a.writesTimer s1.cfg n) → stepN k s1 = .next s2 →
    (∃ es, s2.hist = s1.hist ++ es ∧ ∀ e ∈ es, e.line = l →
      e = .pulse l (some (timerIntervalUs s.cfg (writeOperand 16 w1 v) (writeOperand 16 w2 m)))) ∧
    s1.hist = s.hist ∧
    (s.cfg.spawnMayFail = false → ∃ t u, agentTCheck n s1 = .next t ∧ agentTExpire n t = .next u ∧
      u.hist = s.hist ++
        [.pulse l (some (timerIntervalUs s.cfg (writeOperand 16 w1 v) (writeOperand 16 w2 m)))])

/-! ## Serial -/

/-- R221: a transmit-data write latches the byte, hands it to the transport where that is open, and asserts tx-empty
where `TXIE` is set. -/
def Obligations.TransmitDataWrite : Prop :=
  ∀ (ch : Nat) (w : Width) (v : Word) (s : State),
    exec (.stxdW ch w v) s =
      .next (((if txie s.cfg (s.serial ch).sctl then irqAssert (txeLine s.cfg ch) else id)
        (s.setSerial ch { s.serial ch with
          stxd := (canonicalData w v).setWidth 8
          txOut := if s.cfg.transportOk.getD ch false then (s.serial ch).txOut ++ [(canonicalData w v).setWidth 8]
            else (s.serial ch).txOut })).respond .done)

/-- R222, R226, R224: `STXD` and `SCTL` read back as stored without side effect; a write to `SRXD` does nothing. -/
def Obligations.SerialLatchReads : Prop :=
  ∀ (ch : Nat) (w : Width) (v : Word) (s : State),
    exec (.stxdR ch w) s = .next (s.respond (.data w (canonicalData w ((s.serial ch).stxd.setWidth 32)))) ∧
    exec (.sctlR ch w) s = .next (s.respond (.data w (canonicalData w ((s.serial ch).sctl.setWidth 32)))) ∧
    exec (.srxdW ch w v) s = .next (s.respond .done)

/-- R223: a receive-data read of an empty buffer returns 0 and changes nothing; otherwise it returns the oldest byte,
advances the start index modulo the capacity, and clears rx-ready exactly where it empties the buffer. -/
def Obligations.ReceiveDataRead : Prop :=
  ∀ (ch : Nat) (w : Width) (s : State),
    ((s.serial ch).rxCount = 0 → exec (.srxdR ch w) s = .next (s.respond (.data w 0))) ∧
    ((s.serial ch).rxCount ≠ 0 → exec (.srxdR ch w) s =
      .next (((if (s.serial ch).rxCount = 1 then irqClear (rxrLine s.cfg ch) else id)
        (s.setSerial ch { s.serial ch with
          rxStart := ((s.serial ch).rxStart + 1) % s.cfg.rxCap, rxCount := (s.serial ch).rxCount - 1 })).respond
        (.data w (canonicalData w (((s.serial ch).rxBuf.getD (s.serial ch).rxStart 0).setWidth 32)))))

/-- R225: a control write stores all 16 bits and pulses tx-complete exactly where `TXIE` goes from 1 to 0. -/
def Obligations.SerialControlWrite : Prop :=
  ∀ (ch : Nat) (w : Width) (v : Word) (s : State),
    exec (.sctlW ch w v) s =
      .next (((if (s.serial ch).sctl.getLsbD s.cfg.sctlTxieBit = true ∧
          ((canonicalData w v).setWidth 16).getLsbD s.cfg.sctlTxieBit = false
        then irqPulse (txcLine s.cfg ch) none else id)
        (s.setSerial ch { s.serial ch with sctl := (canonicalData w v).setWidth 16 })).respond .done)

/-- R381, R382, R383, R389: the operations of the interrupt bridge on a wired line, and on none. -/
def Obligations.InterruptBridge : Prop :=
  ∀ (s : State) (l : Nat) (label : Option Nat),
    (irqAssert (some l) s).hist = s.hist ++ [.assert l] ∧ (irqAssert (some l) s).irqLevel l = true ∧
    (irqClear (some l) s).hist = s.hist ++ [.clear l] ∧ (irqClear (some l) s).irqLevel l = false ∧
    (irqPulse (some l) label s).hist = s.hist ++ [.pulse l label] ∧
    (irqPulse (some l) label s).irqLevel l = false ∧
    (∀ m, m ≠ l → (irqAssert (some l) s).irqLevel m = s.irqLevel m ∧
      (irqClear (some l) s).irqLevel m = s.irqLevel m ∧ (irqPulse (some l) label s).irqLevel m = s.irqLevel m) ∧
    (∀ t, t = irqAssert (some l) s ∨ t = irqClear (some l) s ∨ t = irqPulse (some l) label s →
      t = { s with irqHigh := t.irqHigh, hist := t.hist }) ∧
    irqAssert none s = s ∧ irqClear none s = s ∧ irqPulse none label s = s

/-- R235, R236, R237: the transport's delivery and the receive agent's two steps, each where it is enabled; that a step
scheduled where it is not enabled is refused is the model's choice (log entry 11). -/
def Obligations.ReceivePathSteps : Prop :=
  ∀ (ch k : Nat) (bytes : List Byte) (s : State),
    (s.cfg.transportOk.getD ch false = true → bytes ≠ [] →
      envRxDeliver ch bytes s =
        .next (s.setSerial ch { s.serial ch with rxIn := (s.serial ch).rxIn ++ bytes })) ∧
    (s.cfg.transportOk.getD ch false = false ∨ bytes = [] → envRxDeliver ch bytes s = .refused .notEnabled) ∧
    (s.cfg.transportOk.getD ch false = true → (s.serial ch).rxPending = false → 1 ≤ k →
      k ≤ (s.serial ch).rxIn.length →
      agentRxPush ch k s =
        if s.cfg.rxAssertAtomic then
          .next (irqAssert (rxrLine s.cfg ch) (s.setSerial ch (((s.serial ch).rxIn.take k).foldl
            (pushByte s.cfg.rxCap) { s.serial ch with rxIn := (s.serial ch).rxIn.drop k })))
        else
          .next (s.setSerial ch { ((s.serial ch).rxIn.take k).foldl
            (pushByte s.cfg.rxCap) { s.serial ch with rxIn := (s.serial ch).rxIn.drop k } with rxPending := true })) ∧
    (s.cfg.transportOk.getD ch false = false ∨ (s.serial ch).rxPending = true ∨ k = 0 ∨
      (s.serial ch).rxIn.length < k → agentRxPush ch k s = .refused .notEnabled) ∧
    ((s.serial ch).rxPending = true →
      agentRxAssert ch s =
        .next (irqAssert (rxrLine s.cfg ch) (s.setSerial ch { s.serial ch with rxPending := false }))) ∧
    ((s.serial ch).rxPending = false → agentRxAssert ch s = .refused .notEnabled)

/-- R38, R223, R230, R236: the ring buffer refines a bounded queue: a push appends the chunk and keeps the last
`RX_CAP` bytes, a read takes the oldest byte. -/
def Obligations.RingBufferRefinesBoundedQueue : Prop :=
  ∀ (s s' : State) (ch : Nat), s.Inv → ch < s.cfg.numSerial →
    (∀ k, agentRxPush ch k s = .next s' →
      unread s.cfg.rxCap (s'.serial ch) =
        lastOnes s.cfg.rxCap (unread s.cfg.rxCap (s.serial ch) ++ (s.serial ch).rxIn.take k)) ∧
    (∀ w, exec (.srxdR ch w) s = .next s' →
      unread s.cfg.rxCap (s'.serial ch) = (unread s.cfg.rxCap (s.serial ch)).tail ∧
      s'.resp = .data w (((unread s.cfg.rxCap (s.serial ch)).headD 0).setWidth 32))

/-- R242, which the spec marks as derived: on a wired channel with `TXIE` set, each byte written to `STXD` asserts the
transmit line once and is transmitted, and the control write that clears `TXIE` then pulses transmit-complete once. -/
def Obligations.TransmitAssertsOncePerByte : Prop :=
  ∀ (s : State) (ch le lc : Nat) (bs : List Byte), s.Inv → ch < s.cfg.numSerial →
    txie s.cfg (s.serial ch).sctl = true → txeLine s.cfg ch = some le → txcLine s.cfg ch = some lc →
    ∃ t, execAll (bs.map fun b => .stxdW ch .b1 (b.setWidth 32)) s = .next t ∧
      t.hist = s.hist ++ List.replicate bs.length (.assert le) ∧
      (t.serial ch).txOut = (s.serial ch).txOut ++ bs ∧
      ∀ w v, txie s.cfg (writeOperand 16 w v) = false →
        ∃ u, exec (.sctlW ch w v) t = .next u ∧ u.hist = t.hist ++ [.pulse lc none]

/-- R243: chunks of at most `RX_CAP` bytes in all, pushed into an empty buffer, are its unread bytes in order; and
reading as many bytes as are unread returns them in order, with the one clear of rx-ready by the read that empties the
buffer. -/
def Obligations.ReceivedBytesComeBackInOrder : Prop :=
  (∀ (c : Cfg) (ch : Nat) (x : SerialCh) (chunks : List (List Byte)), c.WF → SerialOk c ch x → x.rxCount = 0 →
    chunks.flatten.length ≤ c.rxCap →
    unread c.rxCap (chunks.foldl (pushChunk c.rxCap) x) = chunks.flatten) ∧
  ∀ (s : State) (ch k : Nat), s.Inv → ch < s.cfg.numSerial → k < (s.serial ch).rxCount →
    ∃ t, execAll (List.replicate (k + 1) (.srxdR ch .b1)) s = .next t ∧
      t.resp = .data .b1 (((unread s.cfg.rxCap (s.serial ch)).getD k 0).setWidth 32) ∧
      t.hist = s.hist ++
        (if k + 1 = (s.serial ch).rxCount then ((rxrLine s.cfg ch).map Event.clear).toList else [])

/-! ## Flash -/

/-- R263, R265, R267, R269, R271: each latch write replaces its half or byte and leaves the other half as it was. -/
def Obligations.FlashLatchWrites : Prop :=
  ∀ (w : Width) (v : Word) (s : State),
    exec (.fsahW w v) s = .next ((s.setFlash { s.flash with
      fsa := (canonicalData w v).setWidth 16 ++ s.flash.fsa.extractLsb' 0 16 }).respond .done) ∧
    exec (.fsalW w v) s = .next ((s.setFlash { s.flash with
      fsa := s.flash.fsa.extractLsb' 16 16 ++ (canonicalData w v).setWidth 16 }).respond .done) ∧
    exec (.feahW w v) s = .next ((s.setFlash { s.flash with
      fea := (canonicalData w v).setWidth 16 ++ s.flash.fea.extractLsb' 0 16 }).respond .done) ∧
    exec (.fealW w v) s = .next ((s.setFlash { s.flash with
      fea := s.flash.fea.extractLsb' 16 16 ++ (canonicalData w v).setWidth 16 }).respond .done) ∧
    exec (.fwdW w v) s =
      .next ((s.setFlash { s.flash with fwd := (canonicalData w v).setWidth 8 }).respond .done)

/-- R264, R266, R268, R270, R272, R279, R281: the latches and the command register read back without side effect; a
write to the status register does nothing. -/
def Obligations.FlashRegisterReads : Prop :=
  ∀ (w : Width) (v : Word) (s : State),
    exec (.fsahR w) s =
      .next (s.respond (.data w (canonicalData w ((s.flash.fsa.extractLsb' 16 16).setWidth 32)))) ∧
    exec (.fsalR w) s =
      .next (s.respond (.data w (canonicalData w ((s.flash.fsa.extractLsb' 0 16).setWidth 32)))) ∧
    exec (.feahR w) s =
      .next (s.respond (.data w (canonicalData w ((s.flash.fea.extractLsb' 16 16).setWidth 32)))) ∧
    exec (.fealR w) s =
      .next (s.respond (.data w (canonicalData w ((s.flash.fea.extractLsb' 0 16).setWidth 32)))) ∧
    exec (.fwdR w) s = .next (s.respond (.data w (canonicalData w (s.flash.fwd.setWidth 32)))) ∧
    exec (.fcmdR w) s = .next (s.respond (.data w (canonicalData w (s.flash.fcmd.setWidth 32)))) ∧
    exec (.fstatW w v) s = .next (s.respond .done)

/-- R274, R277, R278: clear latches its code and clears the busy bits; blank-check latches its code and inverts them;
any other code does nothing. -/
def Obligations.ClearBlankAndOtherCommands : Prop :=
  ∀ (w : Width) (v : Word) (s : State),
    exec (.fcmdClear w v) s = .next ((s.setFlash { s.flash with
      fcmd := s.cfg.fcmdClear, fstat := s.flash.fstat &&& ~~~s.cfg.fstatBusyMask }).respond .done) ∧
    exec (.fcmdBlank w v) s = .next ((s.setFlash { s.flash with
      fcmd := s.cfg.fcmdBlank, fstat := s.flash.fstat ^^^ s.cfg.fstatBusyMask }).respond .done) ∧
    exec (.fcmdOther w v) s = .next (s.respond .done)

/-- R275, R262: the write command latches its code, inverts the busy bits, and changes the one byte at the start
address, where that is inside the window; every other byte and every latch
stays. -/
def Obligations.WriteCommandProgramsOneByte : Prop :=
  ∀ (w : Width) (v : Word) (s : State), s.flash.mem.wf = true → ∃ t, exec (.fcmdWrite w v) s = .next t ∧
    t = ({ s with flash := { s.flash with
      fcmd := s.cfg.fcmdWrite, fstat := s.flash.fstat ^^^ s.cfg.fstatBusyMask, mem := t.flash.mem } }).respond .done ∧
    ∀ o, o < s.cfg.flashSize →
      flashByte t o = if s.flash.fsa.toNat = s.cfg.flashdBase + o then s.flash.fwd else flashByte s o

/-- R276, R262: the erase command latches its code, inverts the busy bits, and zeroes exactly the bytes from the start
to the end address, both included, where both are inside the window and in order; every other byte and every latch
stays. -/
def Obligations.EraseCommandZeroesTheRange : Prop :=
  ∀ (w : Width) (v : Word) (s : State), s.flash.mem.wf = true → ∃ t, exec (.fcmdErase w v) s = .next t ∧
    t = ({ s with flash := { s.flash with
      fcmd := s.cfg.fcmdErase, fstat := s.flash.fstat ^^^ s.cfg.fstatBusyMask, mem := t.flash.mem } }).respond .done ∧
    ∀ o, o < s.cfg.flashSize →
      flashByte t o =
        if (s.cfg.flashdBase ≤ s.flash.fsa.toNat ∧ s.flash.fea.toNat < s.cfg.flashdBase + s.cfg.flashSize) ∧
          s.flash.fsa.toNat ≤ s.cfg.flashdBase + o ∧ s.cfg.flashdBase + o ≤ s.flash.fea.toNat
        then 0x00 else flashByte s o

/-- R280: a status read returns the status and inverts the toggle bits, and successive reads alternate without end. -/
def Obligations.StatusReadsAlternate : Prop :=
  (∀ (w : Width) (s : State), exec (.fstatR w) s =
    .next ((s.setFlash { s.flash with fstat := s.flash.fstat ^^^ s.cfg.fstatRdToggleMask }).respond
      (.data w (canonicalData w (s.flash.fstat.setWidth 32))))) ∧
  ∀ (k : Nat) (s : State), ∃ t, execAll (List.replicate (k + 1) (.fstatR .b1)) s = .next t ∧
    t.resp = .data .b1
      ((if k % 2 = 0 then s.flash.fstat else s.flash.fstat ^^^ s.cfg.fstatRdToggleMask).setWidth 32)

/-- R282, R90, R91, R283: each byte of a read of the flash data window is the array's byte at its offset, in the
configured byte order, 0x00 past the end; a read has no side effect, and a write into the window does nothing. -/
def Obligations.FlashWindowReads : Prop :=
  ∀ (o : Nat) (w : Width) (v : Word) (s : State),
    (∃ r, exec (.flashdR o w) s = .next (s.respond (.data w r)) ∧ r.toNat < 2 ^ (8 * w.bytes) ∧
      ∀ k, k < w.bytes → r.extractLsb' (8 * k) 8 =
        flashByte s (o + (match s.cfg.byteOrder with | .little => k | .big => w.bytes - 1 - k))) ∧
    (∀ o', s.cfg.flashSize ≤ o' → flashByte s o' = 0x00) ∧
    exec (.flashdW o w v) s = .next (s.respond .done)

/-- R284: programming a byte at a valid address and reading that address back returns the byte, every other byte
staying; with an invalid address the array is unchanged. -/
def Obligations.ProgrammedByteReadsBack : Prop :=
  ∀ (s : State) (a : Word) (b : Byte), s.Inv → ∃ t, execAll (flashProg s.cfg a b) s = .next t ∧
    (∀ o, a.toNat = s.cfg.flashdBase + o → o < s.cfg.flashSize →
      exec (.flashdR o .b1) t = .next (t.respond (.data .b1 (b.setWidth 32))) ∧
      ∀ o', o' ≠ o → flashByte t o' = flashByte s o') ∧
    ((a.toNat < s.cfg.flashdBase ∨ s.cfg.flashdBase + s.cfg.flashSize ≤ a.toNat) → t.flash.mem = s.flash.mem)

/-- R284: erasing a valid range and reading any address in it returns 0, every byte outside it staying; with an invalid
bound, or the end below the start, the array is unchanged. -/
def Obligations.ErasedRangeReadsZero : Prop :=
  ∀ (s : State) (a b : Word), s.Inv → ∃ t, execAll (flashErase s.cfg a b) s = .next t ∧
    (s.cfg.flashdBase ≤ a.toNat → a.toNat ≤ b.toNat → b.toNat < s.cfg.flashdBase + s.cfg.flashSize →
      ∀ o, o < s.cfg.flashSize →
        (a.toNat ≤ s.cfg.flashdBase + o → s.cfg.flashdBase + o ≤ b.toNat →
          exec (.flashdR o .b1) t = .next (t.respond (.data .b1 0))) ∧
        (s.cfg.flashdBase + o < a.toNat ∨ b.toNat < s.cfg.flashdBase + o → flashByte t o = flashByte s o)) ∧
    (a.toNat < s.cfg.flashdBase ∨ b.toNat < a.toNat ∨ s.cfg.flashdBase + s.cfg.flashSize ≤ b.toNat →
      t.flash.mem = s.flash.mem)

/-! ## Cipher -/

/-- R311, R312, R313, R314: `CCMD` accumulates by OR and reads as the ready pattern with the read-out index reset; a `CMODE`
write clears the IV, its index and the command, and its value reads back. -/
def Obligations.CipherCommandAndMode : Prop :=
  ∀ (w : Width) (v : Word) (s : State),
    exec (.ccmdW w v) s =
      .next ((s.setCipher { s.cipher with ccmd := s.cipher.ccmd ||| canonicalData w v }).respond .done) ∧
    exec (.ccmdR w) s = .next ((s.setCipher { s.cipher with outIdx := 0 }).respond
      (.data w (canonicalData w s.cfg.cipherReady))) ∧
    exec (.cmodeW w v) s = .next ((s.setCipher { s.cipher with
      cmode := canonicalData w v, civ := ⟨0, 0, 0, 0⟩, ivIdx := 0, ccmd := 0 }).respond .done) ∧
    exec (.cmodeR w) s = .next (s.respond (.data w (canonicalData w s.cipher.cmode)))

/-- R310, R315, R317, R316, R318, R320, R322: a key or IV write puts the byte-swapped word at the group's fill index and
advances it modulo 4; the three input streams read as 0; a write to the output stream does nothing. -/
def Obligations.CipherStreams : Prop :=
  ∀ (w : Width) (v : Word) (s : State),
    exec (.ckeyW w v) s = .next ((s.setCipher { s.cipher with
      ckey := quadSet s.cipher.ckey s.cipher.keyIdx (bswap32 (canonicalData w v)),
      keyIdx := s.cipher.keyIdx + 1 }).respond .done) ∧
    exec (.civW w v) s = .next ((s.setCipher { s.cipher with
      civ := quadSet s.cipher.civ s.cipher.ivIdx (bswap32 (canonicalData w v)),
      ivIdx := s.cipher.ivIdx + 1 }).respond .done) ∧
    exec (.ckeyR w) s = .next (s.respond (.data w 0)) ∧
    exec (.civR w) s = .next (s.respond (.data w 0)) ∧
    exec (.cdinR w) s = .next (s.respond (.data w 0)) ∧
    exec (.cdoutW w v) s = .next (s.respond .done)

/-- R310: the swapped word has the bytes of the bus word in reverse order, swapping twice gives the word back, and a
word put into a group is what the group holds there, the other words staying. -/
def Obligations.ByteSwapReversesBytes : Prop :=
  (∀ v : Word, bswap32 (bswap32 v) = v ∧
    ∀ j, j < 4 → (bswap32 v).extractLsb' (8 * j) 8 = v.extractLsb' (24 - 8 * j) 8) ∧
  ∀ (q : Quad) (i j : Fin 4) (v : Word), quadGet (quadSet q i v) j = if j = i then v else quadGet q j

/-- R319, R323: the first three input words only fill the group; the fourth runs one transform in the direction and
mode of the command bits and resets the fill index. -/
def Obligations.FourthInputWordTransforms : Prop :=
  ∀ (w : Width) (v : Word) (s : State),
    (s.cipher.dinIdx ≠ 3 → exec (.cdinW w v) s = .next ((s.setCipher { s.cipher with
      cdin := quadSet s.cipher.cdin s.cipher.dinIdx (bswap32 (canonicalData w v)),
      dinIdx := s.cipher.dinIdx + 1 }).respond .done)) ∧
    (s.cipher.dinIdx = 3 → ∀ block, block = quadSet s.cipher.cdin 3 (bswap32 (canonicalData w v)) →
      (cipherCbc s.cfg s.cipher.ccmd = false → cipherDecrypt s.cfg s.cipher.ccmd = false →
        exec (.cdinW w v) s = .next ((s.setCipher { s.cipher with
          cdin := block, dinIdx := 0, cdout := bcEnc s.cfg s.cipher.ckey block }).respond .done)) ∧
      (cipherCbc s.cfg s.cipher.ccmd = false → cipherDecrypt s.cfg s.cipher.ccmd = true →
        exec (.cdinW w v) s = .next ((s.setCipher { s.cipher with
          cdin := block, dinIdx := 0, cdout := bcDec s.cfg s.cipher.ckey block }).respond .done)) ∧
      (cipherCbc s.cfg s.cipher.ccmd = true → cipherDecrypt s.cfg s.cipher.ccmd = false →
        exec (.cdinW w v) s = .next ((s.setCipher { s.cipher with
          cdin := block, dinIdx := 0, cdout := bcEnc s.cfg s.cipher.ckey (quadXor block s.cipher.civ),
          civ := bcEnc s.cfg s.cipher.ckey (quadXor block s.cipher.civ) }).respond .done)) ∧
      (cipherCbc s.cfg s.cipher.ccmd = true → cipherDecrypt s.cfg s.cipher.ccmd = true →
        exec (.cdinW w v) s = .next ((s.setCipher { s.cipher with
          cdin := block, dinIdx := 0, cdout := quadXor (bcDec s.cfg s.cipher.ckey block) s.cipher.civ,
          civ := block }).respond .done)))

/-- R321: an output read returns the byte-swapped word at the read-out index and advances the index modulo 4. -/
def Obligations.OutputRead : Prop :=
  ∀ (w : Width) (s : State), exec (.cdoutR w) s =
    .next ((s.setCipher { s.cipher with outIdx := s.cipher.outIdx + 1 }).respond
      (.data w (canonicalData w (bswap32 (quadGet s.cipher.cdout s.cipher.outIdx)))))

/-- R324, which the spec marks as derived: where `BC_DEC` inverts `BC_ENC`, encrypting a block in a session and then
decrypting the words read out, in a second session with the same key and IV, reads out the original block, in ECB and
in CBC. The configuration's direction and mode bits are two bits, as CFG0's are: with one bit for both no session has
the mode of the other direction. -/
def Obligations.CipherRoundTrip : Prop :=
  ∀ (s : State) (mode cmd : Word) (key iv block : Quad), s.cfg.WF → s.cfg.ccmdDirBit ≠ s.cfg.ccmdCbcBit →
    (∀ k b, bcDec s.cfg k (bcEnc s.cfg k b) = b) →
    s.cipher.keyIdx = 0 → s.cipher.dinIdx = 0 → cmd.getLsbD s.cfg.ccmdDirBit = false →
    ∃ t1 q t2 t3, execAll (cipherSession mode cmd key iv block) s = .next t1 ∧ ReadsOut t1 q ∧
      execAll (readOut 4) t1 = .next t2 ∧
      execAll (cipherSession mode (cmd ||| (1#32 <<< s.cfg.ccmdDirBit)) key iv q) t2 = .next t3 ∧ ReadsOut t3 block

/-! ## GPIO -/

/-- R356, R357, R358, R359: a control write mirrors and forwards direction and output data; the two reads return what
the collaborator reports, packed each in its own way; a write to the input register does nothing. -/
def Obligations.PortControlAndPins : Prop :=
  ∀ (p : Nat) (w : Width) (v : Word) (s : State),
    (s.cfg.collab = .null →
      exec (.pctlW p w v) s = .next ((((s.setPort p { s.port p with
          pdr := (canonicalData w v).extractLsb' 0 16, podr := (canonicalData w v).extractLsb' 16 16 }).setPins p
        { s.pins p with
          dir := (canonicalData w v).extractLsb' 0 16, out := (canonicalData w v).extractLsb' 16 16 })).respond
        .done) ∧
      exec (.pctlR p w) s = .next (s.respond (.data w (canonicalData w ((s.pins p).out ++ (s.pins p).dir)))) ∧
      ∃ level : Half, exec (.pinR p w) s =
          .next (s.respond (.data w (canonicalData w ((s.pins p).dir ++ level)))) ∧
        ∀ i, i < 16 → level.getLsbD i =
          if (s.pins p).dir.getLsbD i then (s.pins p).out.getLsbD i else (s.pins p).ext.getLsbD i) ∧
    (s.cfg.collab = .external →
      exec (.pctlW p w v) s = .next (({ s.setPort p { s.port p with
          pdr := (canonicalData w v).extractLsb' 0 16, podr := (canonicalData w v).extractLsb' 16 16 } with
        collab := ⟨s.collab.pins, Config.extPinSet s.collab.token p
          ((canonicalData w v).extractLsb' 0 16) ((canonicalData w v).extractLsb' 16 16)⟩ }).respond .done) ∧
      exec (.pctlR p w) s = .next (s.respond (.data w (canonicalData w
        ((Config.extPinGet s.collab.token p).2.1 ++ (Config.extPinGet s.collab.token p).1)))) ∧
      exec (.pinR p w) s = .next (s.respond (.data w (canonicalData w
        ((Config.extPinGet s.collab.token p).1 ++ (Config.extPinGet s.collab.token p).2.2))))) ∧
    exec (.pinW p w v) s = .next (s.respond .done)

/-- R360, R361, R89: an alternate-function write stores the low byte in its one latch; the latch reads back; no other
latch, port or unit changes. -/
def Obligations.AlternateFunctionLatches : Prop :=
  ∀ (p : Nat) (i : Fin 16) (w : Width) (v : Word) (s : State),
    exec (.pfsR p i w) s = .next (s.respond (.data w (canonicalData w (((s.port p).pfs[i.val]).setWidth 32)))) ∧
    (p < s.ports.length → ∃ t, exec (.pfsW p i w v) s = .next t ∧
      (t.port p).pfs[i.val] = (canonicalData w v).setWidth 8 ∧
      (∀ j : Fin 16, j ≠ i → (t.port p).pfs[j.val] = (s.port p).pfs[j.val]) ∧
      (t.port p).podr = (s.port p).podr ∧ (t.port p).pdr = (s.port p).pdr ∧
      (∀ q, q ≠ p → t.ports[q]? = s.ports[q]?) ∧ t = { s with ports := t.ports, resp := .done })

/-- R352, R353: the null collaborator's own step changes its vectors of one port as the environment chooses, and nothing
else; an external one moves where its relation lets it, and changes nothing else. That the external one's state is a
token is the model's choice (log entry 9), and so is that a move its relation does not have is refused (log entry 11). -/
def Obligations.CollaboratorOverride : Prop :=
  ∀ (p token : Nat) (dir out ext : Option Half) (s : State), p < s.cfg.numPorts →
    (s.cfg.collab = .null →
      envPinOverride p dir out ext s = .next (s.setPins p
        ⟨dir.getD (s.pins p).dir, out.getD (s.pins p).out, ext.getD (s.pins p).ext⟩)) ∧
    (s.cfg.collab = .external →
      envPinOverrideExt p token s =
        if Config.extMoves p s.collab.token token then .next { s with collab := { s.collab with token := token } }
        else .refused .notEnabled)

/-- R362: with the null collaborator, what a 32-bit write to `PCTL[p]` wrote is read back, whatever steps come between
that drive neither direction nor output data of the port. -/
def Obligations.PortReadsBackWhatWasWritten : Prop :=
  ∀ (s s1 s2 : State) (p k : Nat) (v : Word), s.Inv → s.cfg.collab = .null → p < s.cfg.numPorts →
    exec (.pctlW p .b4 v) s = .next s1 → (∀ a ∈ s1.schedule, ¬ a.drivesPort s1.cfg p) → stepN k s1 = .next s2 →
    exec (.pctlR p .b4) s2 = .next (s2.respond (.data .b4 v))

/-! ## Accesses that reach no register -/

/-- R163 to R166, R354, R355: an access that reaches no register returns 0 or is ignored, and changes nothing. -/
def Obligations.AccessesToNoRegister : Prop :=
  ∀ (addr : Nat) (w : Width) (v : Word) (s : State),
    (∀ i ∈ [Instr.unmappedR addr w, .noregRTimer addr w, .noregRSerial addr w, .noregRFlashc addr w,
        .noregRCipher addr w, .noregRGpio addr w, .gpioRejectR addr w],
      exec i s = .next (s.respond (.data w 0))) ∧
    (∀ i ∈ [Instr.unmappedW addr w v, .noregWTimer addr w v, .noregWSerial addr w v, .noregWFlashc addr w v,
        .noregWCipher addr w v, .noregWGpio addr w v, .gpioRejectW addr w v],
      exec i s = .next (s.respond .done))
end

