-- ==== Sys2Proof/Laws/State.lean ====
section
/-! SUPPORT. For each named update of the state, what each field is after it: one lemma per field per update, and the
accessors by number after an update of the same kind. Later proofs cite these and unfold no record update. -/

namespace Sys2Proof.Machine

/-! ## `setTimer` -/

@[simp] theorem setTimer_cfg (s : State) (n : Nat) (t : TimerCh) : (s.setTimer n t).cfg = s.cfg := rfl
@[simp] theorem setTimer_timers (s : State) (n : Nat) (t : TimerCh) : (s.setTimer n t).timers = s.timers.set n t := rfl
@[simp] theorem setTimer_serials (s : State) (n : Nat) (t : TimerCh) : (s.setTimer n t).serials = s.serials := rfl
@[simp] theorem setTimer_flash (s : State) (n : Nat) (t : TimerCh) : (s.setTimer n t).flash = s.flash := rfl
@[simp] theorem setTimer_cipher (s : State) (n : Nat) (t : TimerCh) : (s.setTimer n t).cipher = s.cipher := rfl
@[simp] theorem setTimer_ports (s : State) (n : Nat) (t : TimerCh) : (s.setTimer n t).ports = s.ports := rfl
@[simp] theorem setTimer_collab (s : State) (n : Nat) (t : TimerCh) : (s.setTimer n t).collab = s.collab := rfl
@[simp] theorem setTimer_irqHigh (s : State) (n : Nat) (t : TimerCh) : (s.setTimer n t).irqHigh = s.irqHigh := rfl
@[simp] theorem setTimer_hist (s : State) (n : Nat) (t : TimerCh) : (s.setTimer n t).hist = s.hist := rfl
@[simp] theorem setTimer_resp (s : State) (n : Nat) (t : TimerCh) : (s.setTimer n t).resp = s.resp := rfl
@[simp] theorem setTimer_schedule (s : State) (n : Nat) (t : TimerCh) : (s.setTimer n t).schedule = s.schedule := rfl
@[simp] theorem setTimer_spawnCtr (s : State) (n : Nat) (t : TimerCh) : (s.setTimer n t).spawnCtr = s.spawnCtr := rfl

/-! ## `setSerial` -/

@[simp] theorem setSerial_cfg (s : State) (ch : Nat) (x : SerialCh) : (s.setSerial ch x).cfg = s.cfg := rfl
@[simp] theorem setSerial_timers (s : State) (ch : Nat) (x : SerialCh) : (s.setSerial ch x).timers = s.timers := rfl
@[simp] theorem setSerial_serials (s : State) (ch : Nat) (x : SerialCh) : (s.setSerial ch x).serials = s.serials.set ch x := rfl
@[simp] theorem setSerial_flash (s : State) (ch : Nat) (x : SerialCh) : (s.setSerial ch x).flash = s.flash := rfl
@[simp] theorem setSerial_cipher (s : State) (ch : Nat) (x : SerialCh) : (s.setSerial ch x).cipher = s.cipher := rfl
@[simp] theorem setSerial_ports (s : State) (ch : Nat) (x : SerialCh) : (s.setSerial ch x).ports = s.ports := rfl
@[simp] theorem setSerial_collab (s : State) (ch : Nat) (x : SerialCh) : (s.setSerial ch x).collab = s.collab := rfl
@[simp] theorem setSerial_irqHigh (s : State) (ch : Nat) (x : SerialCh) : (s.setSerial ch x).irqHigh = s.irqHigh := rfl
@[simp] theorem setSerial_hist (s : State) (ch : Nat) (x : SerialCh) : (s.setSerial ch x).hist = s.hist := rfl
@[simp] theorem setSerial_resp (s : State) (ch : Nat) (x : SerialCh) : (s.setSerial ch x).resp = s.resp := rfl
@[simp] theorem setSerial_schedule (s : State) (ch : Nat) (x : SerialCh) : (s.setSerial ch x).schedule = s.schedule := rfl
@[simp] theorem setSerial_spawnCtr (s : State) (ch : Nat) (x : SerialCh) : (s.setSerial ch x).spawnCtr = s.spawnCtr := rfl

/-! ## `setPort` -/

@[simp] theorem setPort_cfg (s : State) (p : Nat) (x : GpioPort) : (s.setPort p x).cfg = s.cfg := rfl
@[simp] theorem setPort_timers (s : State) (p : Nat) (x : GpioPort) : (s.setPort p x).timers = s.timers := rfl
@[simp] theorem setPort_serials (s : State) (p : Nat) (x : GpioPort) : (s.setPort p x).serials = s.serials := rfl
@[simp] theorem setPort_flash (s : State) (p : Nat) (x : GpioPort) : (s.setPort p x).flash = s.flash := rfl
@[simp] theorem setPort_cipher (s : State) (p : Nat) (x : GpioPort) : (s.setPort p x).cipher = s.cipher := rfl
@[simp] theorem setPort_ports (s : State) (p : Nat) (x : GpioPort) : (s.setPort p x).ports = s.ports.set p x := rfl
@[simp] theorem setPort_collab (s : State) (p : Nat) (x : GpioPort) : (s.setPort p x).collab = s.collab := rfl
@[simp] theorem setPort_irqHigh (s : State) (p : Nat) (x : GpioPort) : (s.setPort p x).irqHigh = s.irqHigh := rfl
@[simp] theorem setPort_hist (s : State) (p : Nat) (x : GpioPort) : (s.setPort p x).hist = s.hist := rfl
@[simp] theorem setPort_resp (s : State) (p : Nat) (x : GpioPort) : (s.setPort p x).resp = s.resp := rfl
@[simp] theorem setPort_schedule (s : State) (p : Nat) (x : GpioPort) : (s.setPort p x).schedule = s.schedule := rfl
@[simp] theorem setPort_spawnCtr (s : State) (p : Nat) (x : GpioPort) : (s.setPort p x).spawnCtr = s.spawnCtr := rfl

/-! ## `setPins` -/

@[simp] theorem setPins_cfg (s : State) (p : Nat) (x : PinVec) : (s.setPins p x).cfg = s.cfg := rfl
@[simp] theorem setPins_timers (s : State) (p : Nat) (x : PinVec) : (s.setPins p x).timers = s.timers := rfl
@[simp] theorem setPins_serials (s : State) (p : Nat) (x : PinVec) : (s.setPins p x).serials = s.serials := rfl
@[simp] theorem setPins_flash (s : State) (p : Nat) (x : PinVec) : (s.setPins p x).flash = s.flash := rfl
@[simp] theorem setPins_cipher (s : State) (p : Nat) (x : PinVec) : (s.setPins p x).cipher = s.cipher := rfl
@[simp] theorem setPins_ports (s : State) (p : Nat) (x : PinVec) : (s.setPins p x).ports = s.ports := rfl
@[simp] theorem setPins_collab (s : State) (p : Nat) (x : PinVec) : (s.setPins p x).collab = { s.collab with pins := s.collab.pins.set p x } := rfl
@[simp] theorem setPins_irqHigh (s : State) (p : Nat) (x : PinVec) : (s.setPins p x).irqHigh = s.irqHigh := rfl
@[simp] theorem setPins_hist (s : State) (p : Nat) (x : PinVec) : (s.setPins p x).hist = s.hist := rfl
@[simp] theorem setPins_resp (s : State) (p : Nat) (x : PinVec) : (s.setPins p x).resp = s.resp := rfl
@[simp] theorem setPins_schedule (s : State) (p : Nat) (x : PinVec) : (s.setPins p x).schedule = s.schedule := rfl
@[simp] theorem setPins_spawnCtr (s : State) (p : Nat) (x : PinVec) : (s.setPins p x).spawnCtr = s.spawnCtr := rfl

/-! ## `setFlash` -/

@[simp] theorem setFlash_cfg (s : State) (f : FlashCtl) : (s.setFlash f).cfg = s.cfg := rfl
@[simp] theorem setFlash_timers (s : State) (f : FlashCtl) : (s.setFlash f).timers = s.timers := rfl
@[simp] theorem setFlash_serials (s : State) (f : FlashCtl) : (s.setFlash f).serials = s.serials := rfl
@[simp] theorem setFlash_flash (s : State) (f : FlashCtl) : (s.setFlash f).flash = f := rfl
@[simp] theorem setFlash_cipher (s : State) (f : FlashCtl) : (s.setFlash f).cipher = s.cipher := rfl
@[simp] theorem setFlash_ports (s : State) (f : FlashCtl) : (s.setFlash f).ports = s.ports := rfl
@[simp] theorem setFlash_collab (s : State) (f : FlashCtl) : (s.setFlash f).collab = s.collab := rfl
@[simp] theorem setFlash_irqHigh (s : State) (f : FlashCtl) : (s.setFlash f).irqHigh = s.irqHigh := rfl
@[simp] theorem setFlash_hist (s : State) (f : FlashCtl) : (s.setFlash f).hist = s.hist := rfl
@[simp] theorem setFlash_resp (s : State) (f : FlashCtl) : (s.setFlash f).resp = s.resp := rfl
@[simp] theorem setFlash_schedule (s : State) (f : FlashCtl) : (s.setFlash f).schedule = s.schedule := rfl
@[simp] theorem setFlash_spawnCtr (s : State) (f : FlashCtl) : (s.setFlash f).spawnCtr = s.spawnCtr := rfl

/-! ## `setCipher` -/

@[simp] theorem setCipher_cfg (s : State) (u : CipherUnit) : (s.setCipher u).cfg = s.cfg := rfl
@[simp] theorem setCipher_timers (s : State) (u : CipherUnit) : (s.setCipher u).timers = s.timers := rfl
@[simp] theorem setCipher_serials (s : State) (u : CipherUnit) : (s.setCipher u).serials = s.serials := rfl
@[simp] theorem setCipher_flash (s : State) (u : CipherUnit) : (s.setCipher u).flash = s.flash := rfl
@[simp] theorem setCipher_cipher (s : State) (u : CipherUnit) : (s.setCipher u).cipher = u := rfl
@[simp] theorem setCipher_ports (s : State) (u : CipherUnit) : (s.setCipher u).ports = s.ports := rfl
@[simp] theorem setCipher_collab (s : State) (u : CipherUnit) : (s.setCipher u).collab = s.collab := rfl
@[simp] theorem setCipher_irqHigh (s : State) (u : CipherUnit) : (s.setCipher u).irqHigh = s.irqHigh := rfl
@[simp] theorem setCipher_hist (s : State) (u : CipherUnit) : (s.setCipher u).hist = s.hist := rfl
@[simp] theorem setCipher_resp (s : State) (u : CipherUnit) : (s.setCipher u).resp = s.resp := rfl
@[simp] theorem setCipher_schedule (s : State) (u : CipherUnit) : (s.setCipher u).schedule = s.schedule := rfl
@[simp] theorem setCipher_spawnCtr (s : State) (u : CipherUnit) : (s.setCipher u).spawnCtr = s.spawnCtr := rfl

/-! ## `respond` -/

@[simp] theorem respond_cfg (s : State) (r : Resp) : (s.respond r).cfg = s.cfg := rfl
@[simp] theorem respond_timers (s : State) (r : Resp) : (s.respond r).timers = s.timers := rfl
@[simp] theorem respond_serials (s : State) (r : Resp) : (s.respond r).serials = s.serials := rfl
@[simp] theorem respond_flash (s : State) (r : Resp) : (s.respond r).flash = s.flash := rfl
@[simp] theorem respond_cipher (s : State) (r : Resp) : (s.respond r).cipher = s.cipher := rfl
@[simp] theorem respond_ports (s : State) (r : Resp) : (s.respond r).ports = s.ports := rfl
@[simp] theorem respond_collab (s : State) (r : Resp) : (s.respond r).collab = s.collab := rfl
@[simp] theorem respond_irqHigh (s : State) (r : Resp) : (s.respond r).irqHigh = s.irqHigh := rfl
@[simp] theorem respond_hist (s : State) (r : Resp) : (s.respond r).hist = s.hist := rfl
@[simp] theorem respond_resp (s : State) (r : Resp) : (s.respond r).resp = r := rfl
@[simp] theorem respond_schedule (s : State) (r : Resp) : (s.respond r).schedule = s.schedule := rfl
@[simp] theorem respond_spawnCtr (s : State) (r : Resp) : (s.respond r).spawnCtr = s.spawnCtr := rfl

/-! ## `withAction` -/

@[simp] theorem withAction_cfg (s : State) (a : Action) : (s.withAction a).cfg = s.cfg := rfl
@[simp] theorem withAction_timers (s : State) (a : Action) : (s.withAction a).timers = s.timers := rfl
@[simp] theorem withAction_serials (s : State) (a : Action) : (s.withAction a).serials = s.serials := rfl
@[simp] theorem withAction_flash (s : State) (a : Action) : (s.withAction a).flash = s.flash := rfl
@[simp] theorem withAction_cipher (s : State) (a : Action) : (s.withAction a).cipher = s.cipher := rfl
@[simp] theorem withAction_ports (s : State) (a : Action) : (s.withAction a).ports = s.ports := rfl
@[simp] theorem withAction_collab (s : State) (a : Action) : (s.withAction a).collab = s.collab := rfl
@[simp] theorem withAction_irqHigh (s : State) (a : Action) : (s.withAction a).irqHigh = s.irqHigh := rfl
@[simp] theorem withAction_hist (s : State) (a : Action) : (s.withAction a).hist = s.hist := rfl
@[simp] theorem withAction_resp (s : State) (a : Action) : (s.withAction a).resp = s.resp := rfl
@[simp] theorem withAction_schedule (s : State) (a : Action) : (s.withAction a).schedule = a :: s.schedule := rfl
@[simp] theorem withAction_spawnCtr (s : State) (a : Action) : (s.withAction a).spawnCtr = s.spawnCtr := rfl

/-! ## `irqAssert` -/

@[simp] theorem irqAssert_cfg (l : Option Nat) (s : State) : (irqAssert l s).cfg = s.cfg := by cases l <;> rfl
@[simp] theorem irqAssert_timers (l : Option Nat) (s : State) : (irqAssert l s).timers = s.timers := by cases l <;> rfl
@[simp] theorem irqAssert_serials (l : Option Nat) (s : State) : (irqAssert l s).serials = s.serials := by cases l <;> rfl
@[simp] theorem irqAssert_flash (l : Option Nat) (s : State) : (irqAssert l s).flash = s.flash := by cases l <;> rfl
@[simp] theorem irqAssert_cipher (l : Option Nat) (s : State) : (irqAssert l s).cipher = s.cipher := by cases l <;> rfl
@[simp] theorem irqAssert_ports (l : Option Nat) (s : State) : (irqAssert l s).ports = s.ports := by cases l <;> rfl
@[simp] theorem irqAssert_collab (l : Option Nat) (s : State) : (irqAssert l s).collab = s.collab := by cases l <;> rfl
@[simp] theorem irqAssert_resp (l : Option Nat) (s : State) : (irqAssert l s).resp = s.resp := by cases l <;> rfl
@[simp] theorem irqAssert_schedule (l : Option Nat) (s : State) : (irqAssert l s).schedule = s.schedule := by cases l <;> rfl
@[simp] theorem irqAssert_spawnCtr (l : Option Nat) (s : State) : (irqAssert l s).spawnCtr = s.spawnCtr := by cases l <;> rfl
@[simp] theorem irqAssert_none (s : State) : irqAssert none s = s := rfl
@[simp] theorem irqAssert_some_irqHigh (l : Nat) (s : State) : (irqAssert (some l) s).irqHigh = raiseLine l s.irqHigh := rfl
@[simp] theorem irqAssert_some_hist (l : Nat) (s : State) : (irqAssert (some l) s).hist = s.hist ++ [.assert l] := rfl

/-! ## `irqClear` -/

@[simp] theorem irqClear_cfg (l : Option Nat) (s : State) : (irqClear l s).cfg = s.cfg := by cases l <;> rfl
@[simp] theorem irqClear_timers (l : Option Nat) (s : State) : (irqClear l s).timers = s.timers := by cases l <;> rfl
@[simp] theorem irqClear_serials (l : Option Nat) (s : State) : (irqClear l s).serials = s.serials := by cases l <;> rfl
@[simp] theorem irqClear_flash (l : Option Nat) (s : State) : (irqClear l s).flash = s.flash := by cases l <;> rfl
@[simp] theorem irqClear_cipher (l : Option Nat) (s : State) : (irqClear l s).cipher = s.cipher := by cases l <;> rfl
@[simp] theorem irqClear_ports (l : Option Nat) (s : State) : (irqClear l s).ports = s.ports := by cases l <;> rfl
@[simp] theorem irqClear_collab (l : Option Nat) (s : State) : (irqClear l s).collab = s.collab := by cases l <;> rfl
@[simp] theorem irqClear_resp (l : Option Nat) (s : State) : (irqClear l s).resp = s.resp := by cases l <;> rfl
@[simp] theorem irqClear_schedule (l : Option Nat) (s : State) : (irqClear l s).schedule = s.schedule := by cases l <;> rfl
@[simp] theorem irqClear_spawnCtr (l : Option Nat) (s : State) : (irqClear l s).spawnCtr = s.spawnCtr := by cases l <;> rfl
@[simp] theorem irqClear_none (s : State) : irqClear none s = s := rfl
@[simp] theorem irqClear_some_irqHigh (l : Nat) (s : State) : (irqClear (some l) s).irqHigh = lowerLine l s.irqHigh := rfl
@[simp] theorem irqClear_some_hist (l : Nat) (s : State) : (irqClear (some l) s).hist = s.hist ++ [.clear l] := rfl

/-! ## `irqPulse` -/

@[simp] theorem irqPulse_cfg (l label : Option Nat) (s : State) : (irqPulse l label s).cfg = s.cfg := by cases l <;> rfl
@[simp] theorem irqPulse_timers (l label : Option Nat) (s : State) : (irqPulse l label s).timers = s.timers := by cases l <;> rfl
@[simp] theorem irqPulse_serials (l label : Option Nat) (s : State) : (irqPulse l label s).serials = s.serials := by cases l <;> rfl
@[simp] theorem irqPulse_flash (l label : Option Nat) (s : State) : (irqPulse l label s).flash = s.flash := by cases l <;> rfl
@[simp] theorem irqPulse_cipher (l label : Option Nat) (s : State) : (irqPulse l label s).cipher = s.cipher := by cases l <;> rfl
@[simp] theorem irqPulse_ports (l label : Option Nat) (s : State) : (irqPulse l label s).ports = s.ports := by cases l <;> rfl
@[simp] theorem irqPulse_collab (l label : Option Nat) (s : State) : (irqPulse l label s).collab = s.collab := by cases l <;> rfl
@[simp] theorem irqPulse_resp (l label : Option Nat) (s : State) : (irqPulse l label s).resp = s.resp := by cases l <;> rfl
@[simp] theorem irqPulse_schedule (l label : Option Nat) (s : State) : (irqPulse l label s).schedule = s.schedule := by cases l <;> rfl
@[simp] theorem irqPulse_spawnCtr (l label : Option Nat) (s : State) : (irqPulse l label s).spawnCtr = s.spawnCtr := by cases l <;> rfl
@[simp] theorem irqPulse_none (label : Option Nat) (s : State) : irqPulse none label s = s := rfl
@[simp] theorem irqPulse_some_irqHigh (l : Nat) (label : Option Nat) (s : State) : (irqPulse (some l) label s).irqHigh = lowerLine l s.irqHigh := rfl
@[simp] theorem irqPulse_some_hist (l : Nat) (label : Option Nat) (s : State) : (irqPulse (some l) label s).hist = s.hist ++ [.pulse l label] := rfl

/-! ## `pinSet` and `spawn` -/

@[simp] theorem pinSet_cfg (p : Nat) (d o : Half) (s : State) : (pinSet p d o s).cfg = s.cfg := by
  unfold pinSet; split <;> rfl
@[simp] theorem pinSet_timers (p : Nat) (d o : Half) (s : State) : (pinSet p d o s).timers = s.timers := by
  unfold pinSet; split <;> rfl
@[simp] theorem pinSet_serials (p : Nat) (d o : Half) (s : State) : (pinSet p d o s).serials = s.serials := by
  unfold pinSet; split <;> rfl
@[simp] theorem pinSet_flash (p : Nat) (d o : Half) (s : State) : (pinSet p d o s).flash = s.flash := by
  unfold pinSet; split <;> rfl
@[simp] theorem pinSet_cipher (p : Nat) (d o : Half) (s : State) : (pinSet p d o s).cipher = s.cipher := by
  unfold pinSet; split <;> rfl
@[simp] theorem pinSet_ports (p : Nat) (d o : Half) (s : State) : (pinSet p d o s).ports = s.ports := by
  unfold pinSet; split <;> rfl
@[simp] theorem pinSet_irqHigh (p : Nat) (d o : Half) (s : State) : (pinSet p d o s).irqHigh = s.irqHigh := by
  unfold pinSet; split <;> rfl
@[simp] theorem pinSet_hist (p : Nat) (d o : Half) (s : State) : (pinSet p d o s).hist = s.hist := by
  unfold pinSet; split <;> rfl
@[simp] theorem pinSet_resp (p : Nat) (d o : Half) (s : State) : (pinSet p d o s).resp = s.resp := by
  unfold pinSet; split <;> rfl
@[simp] theorem pinSet_schedule (p : Nat) (d o : Half) (s : State) : (pinSet p d o s).schedule = s.schedule := by
  unfold pinSet; split <;> rfl
@[simp] theorem pinSet_spawnCtr (p : Nat) (d o : Half) (s : State) : (pinSet p d o s).spawnCtr = s.spawnCtr := by
  unfold pinSet; split <;> rfl
@[simp] theorem spawn_cfg (s : State) : (spawn s).2.cfg = s.cfg := by
  unfold spawn; split <;> rfl
@[simp] theorem spawn_timers (s : State) : (spawn s).2.timers = s.timers := by
  unfold spawn; split <;> rfl
@[simp] theorem spawn_serials (s : State) : (spawn s).2.serials = s.serials := by
  unfold spawn; split <;> rfl
@[simp] theorem spawn_flash (s : State) : (spawn s).2.flash = s.flash := by
  unfold spawn; split <;> rfl
@[simp] theorem spawn_cipher (s : State) : (spawn s).2.cipher = s.cipher := by
  unfold spawn; split <;> rfl
@[simp] theorem spawn_ports (s : State) : (spawn s).2.ports = s.ports := by
  unfold spawn; split <;> rfl
@[simp] theorem spawn_collab (s : State) : (spawn s).2.collab = s.collab := by
  unfold spawn; split <;> rfl
@[simp] theorem spawn_irqHigh (s : State) : (spawn s).2.irqHigh = s.irqHigh := by
  unfold spawn; split <;> rfl
@[simp] theorem spawn_hist (s : State) : (spawn s).2.hist = s.hist := by
  unfold spawn; split <;> rfl
@[simp] theorem spawn_resp (s : State) : (spawn s).2.resp = s.resp := by
  unfold spawn; split <;> rfl
@[simp] theorem spawn_schedule (s : State) : (spawn s).2.schedule = s.schedule := by
  unfold spawn; split <;> rfl

/-- Without `SPAWN_MAY_FAIL` every arming start brings its agent into being (R191). -/
theorem spawn_of_cannot_fail (s : State) (h : s.cfg.spawnMayFail = false) : spawn s = (true, s) := by
  simp [spawn, h]

/-- With `SPAWN_MAY_FAIL` the free value decides, and the next one is used next (R191). -/
theorem spawn_of_may_fail (s : State) (h : s.cfg.spawnMayFail = true) :
    spawn s = (Config.spawnSucceeds s.spawnCtr, { s with spawnCtr := s.spawnCtr + 1 }) := by
  simp [spawn, h]

@[simp] theorem pinSet_pins_length (p : Nat) (d o : Half) (s : State) :
    (pinSet p d o s).collab.pins.length = s.collab.pins.length := by
  unfold pinSet; split <;> simp

/-! ## Channels and ports by number after an update -/

theorem timer_setTimer (s : State) (n m : Nat) (t : TimerCh) :
    (s.setTimer n t).timer m = if n = m ∧ m < s.timers.length then t else s.timer m := by
  simp only [State.timer, setTimer_timers, List.getD_eq_getElem?_getD, List.getElem?_set]
  by_cases h : n = m
  · subst h
    by_cases hl : n < s.timers.length
    · simp [hl]
    · simp [hl]
  · simp [h]

@[simp] theorem timer_setTimer_self (s : State) (n : Nat) (t : TimerCh) (h : n < s.timers.length) :
    (s.setTimer n t).timer n = t := by simp [timer_setTimer, h]

theorem timer_setTimer_ne (s : State) (n m : Nat) (t : TimerCh) (h : n ≠ m) :
    (s.setTimer n t).timer m = s.timer m := by simp [timer_setTimer, h]

theorem serial_setSerial (s : State) (n m : Nat) (x : SerialCh) :
    (s.setSerial n x).serial m = if n = m ∧ m < s.serials.length then x else s.serial m := by
  simp only [State.serial, setSerial_serials, setSerial_cfg, List.getD_eq_getElem?_getD, List.getElem?_set]
  by_cases h : n = m
  · subst h
    by_cases hl : n < s.serials.length
    · simp [hl]
    · simp [hl]
  · simp [h]

@[simp] theorem serial_setSerial_self (s : State) (n : Nat) (x : SerialCh) (h : n < s.serials.length) :
    (s.setSerial n x).serial n = x := by simp [serial_setSerial, h]

theorem serial_setSerial_ne (s : State) (n m : Nat) (x : SerialCh) (h : n ≠ m) :
    (s.setSerial n x).serial m = s.serial m := by simp [serial_setSerial, h]

theorem port_setPort (s : State) (n m : Nat) (x : GpioPort) :
    (s.setPort n x).port m = if n = m ∧ m < s.ports.length then x else s.port m := by
  simp only [State.port, setPort_ports, List.getD_eq_getElem?_getD, List.getElem?_set]
  by_cases h : n = m
  · subst h
    by_cases hl : n < s.ports.length
    · simp [hl]
    · simp [hl]
  · simp [h]

theorem pins_setPins (s : State) (n m : Nat) (x : PinVec) :
    (s.setPins n x).pins m = if n = m ∧ m < s.collab.pins.length then x else s.pins m := by
  simp only [State.pins, setPins_collab, List.getD_eq_getElem?_getD, List.getElem?_set]
  by_cases h : n = m
  · subst h
    by_cases hl : n < s.collab.pins.length
    · simp [hl]
    · simp [hl]
  · simp [h]

/-! ## Accessors see only their own field -/

theorem timer_congr {s t : State} (h : t.timers = s.timers) (n : Nat) : t.timer n = s.timer n := by
  simp [State.timer, h]

theorem serial_congr {s t : State} (h : t.serials = s.serials) (hc : t.cfg = s.cfg) (n : Nat) :
    t.serial n = s.serial n := by
  simp [State.serial, h, hc]

theorem irqLevel_congr {s t : State} (h : t.irqHigh = s.irqHigh) (l : Nat) : t.irqLevel l = s.irqLevel l := by
  simp [State.irqLevel, h]

theorem flashByte_congr {s t : State} (h : t.flash.mem = s.flash.mem) (hc : t.cfg = s.cfg) (o : Nat) :
    flashByte t o = flashByte s o := by
  simp [flashByte, h, hc]

end Sys2Proof.Machine
end

