-- ==== Sys2Proof/Laws/Lines.lean ====
section
/-! SUPPORT. The laws of the interrupt bridge: which lines are up after each operation of it, and that the lines stay
in rising order and on the line table. -/

namespace Sys2Proof.Machine

@[simp] theorem mem_raiseLine {l m : Nat} {hs : List Nat} : m ∈ raiseLine l hs ↔ m = l ∨ m ∈ hs := by
  induction hs with
  | nil => simp [raiseLine]
  | cons h t ih =>
    unfold raiseLine
    split
    · simp
    · split
      · rename_i h2
        subst h2
        simp
      · simp only [List.mem_cons, ih]
        tauto

@[simp] theorem mem_lowerLine {l m : Nat} {hs : List Nat} : m ∈ lowerLine l hs ↔ m ∈ hs ∧ m ≠ l := by
  simp [lowerLine]

theorem raiseLine_sorted {l : Nat} {hs : List Nat} (h : hs.Pairwise (· < ·)) : (raiseLine l hs).Pairwise (· < ·) := by
  induction hs with
  | nil => simp [raiseLine]
  | cons x t ih =>
    obtain ⟨hx, ht⟩ := List.pairwise_cons.1 h
    unfold raiseLine
    split
    · rename_i hl
      refine List.pairwise_cons.2 ⟨?_, h⟩
      intro y hy
      rcases List.mem_cons.1 hy with rfl | hy
      · exact hl
      · exact Nat.lt_trans hl (hx y hy)
    · split
      · exact h
      · refine List.pairwise_cons.2 ⟨?_, ih ht⟩
        intro y hy
        rcases mem_raiseLine.1 hy with rfl | hy
        · omega
        · exact hx y hy

theorem lowerLine_sorted {l : Nat} {hs : List Nat} (h : hs.Pairwise (· < ·)) : (lowerLine l hs).Pairwise (· < ·) :=
  h.sublist List.filter_sublist

theorem irqLevel_eq_true {s : State} {l : Nat} : s.irqLevel l = true ↔ l ∈ s.irqHigh := by simp [State.irqLevel]

/-- The level of every line after an assertion (R381). -/
theorem irqLevel_irqAssert (l m : Nat) (s : State) :
    (irqAssert (some l) s).irqLevel m = if m = l then true else s.irqLevel m := by
  rw [Bool.eq_iff_iff, irqLevel_eq_true, irqAssert_some_irqHigh, mem_raiseLine]
  split <;> simp_all [irqLevel_eq_true]

/-- The level of every line after a clear (R382). -/
theorem irqLevel_irqClear (l m : Nat) (s : State) :
    (irqClear (some l) s).irqLevel m = if m = l then false else s.irqLevel m := by
  rw [Bool.eq_iff_iff, irqLevel_eq_true, irqClear_some_irqHigh, mem_lowerLine]
  split <;> simp_all [irqLevel_eq_true]

/-- The level of every line after a pulse (R383). -/
theorem irqLevel_irqPulse (l m : Nat) (label : Option Nat) (s : State) :
    (irqPulse (some l) label s).irqLevel m = if m = l then false else s.irqLevel m := by
  rw [Bool.eq_iff_iff, irqLevel_eq_true, irqPulse_some_irqHigh, mem_lowerLine]
  split <;> simp_all [irqLevel_eq_true]

/-- The level a history leaves a line at, one event later (R380). -/
theorem levelAfter_append (l : Nat) (h : List Event) (e : Event) :
    levelAfter l (h ++ [e]) = if e.line = l then e.isAssert else levelAfter l h := by
  simp [levelAfter, List.foldl_append]

/-- The line of a timer channel is one of the line table. -/
theorem timerLineOf_mem {c : Cfg} {n l : Nat} (h : timerLineOf c n = some l) : l ∈ c.lineIds := by
  refine List.mem_append.2 (Or.inl (List.mem_filterMap.2 ⟨some l, ?_, rfl⟩))
  rw [timerLineOf, List.getD_eq_getElem?_getD] at h
  cases hg : c.timerLine[n]? with
  | none => simp [hg] at h
  | some o =>
    simp [hg] at h
    exact h ▸ List.mem_of_getElem? hg

/-- The three lines of a wired serial channel are of the line table. -/
theorem linesOf_mem {c : Cfg} {ch : Nat} {x : SerialLines} (h : linesOf c ch = some x) :
    x.txe ∈ c.lineIds ∧ x.txc ∈ c.lineIds ∧ x.rxr ∈ c.lineIds := by
  unfold linesOf at h
  split at h
  · rw [List.getD_eq_getElem?_getD] at h
    cases hg : c.serialLines[ch]? with
    | none => simp [hg] at h
    | some o =>
      simp [hg] at h
      subst h
      have hm := List.mem_of_getElem? hg
      have key : ∀ l ∈ [x.txe, x.txc, x.rxr], l ∈ c.lineIds := fun l hl =>
        List.mem_append.2 (Or.inr (List.mem_flatMap.2 ⟨some x, hm, hl⟩))
      exact ⟨key _ (by simp), key _ (by simp), key _ (by simp)⟩
  · simp at h

end Sys2Proof.Machine
end

