-- ==== Sys2Proof/Laws/Memory.lean ====
section
/-! SUPPORT. The laws of the flash array as data: what a read sees after a write or an erase, and that every operation
keeps the canonical form. -/

namespace Sys2Proof.Machine

@[simp] theorem Memory.read_nil (o : Nat) : Memory.read [] o = unlistedByte := rfl

theorem Memory.read_cons (k o : Nat) (b : Byte) (m : Memory) :
    Memory.read ((k, b) :: m) o = if o = k then b else Memory.read m o := rfl

/-- The canonical form of a non-empty list: its first entry is no unlisted byte, lies below all others, and the rest is
in canonical form. -/
theorem Memory.wf_cons {k : Nat} {b : Byte} {m : Memory} :
    Memory.wf ((k, b) :: m) = true ↔ b ≠ unlistedByte ∧ (∀ x ∈ m, k < x.1) ∧ Memory.wf m = true := by
  induction m generalizing k b with
  | nil => simp [Memory.wf]
  | cons x m ih =>
    obtain ⟨k', b'⟩ := x
    rw [Memory.wf]
    simp only [Bool.and_eq_true, decide_eq_true_eq, List.mem_cons, forall_eq_or_imp]
    constructor
    · rintro ⟨⟨hlt, hb⟩, hw⟩
      refine ⟨hb, ⟨hlt, fun x hx => ?_⟩, hw⟩
      exact Nat.lt_trans hlt ((ih.1 hw).2.1 x hx)
    · rintro ⟨hb, ⟨hlt, _⟩, hw⟩
      exact ⟨⟨hlt, hb⟩, hw⟩

/-- An offset below every listed one reads as an unlisted byte. -/
theorem Memory.read_below {m : Memory} {o : Nat} (h : ∀ x ∈ m, o < x.1) : Memory.read m o = unlistedByte := by
  induction m with
  | nil => rfl
  | cons x m ih =>
    obtain ⟨k, b⟩ := x
    have hk := h (k, b) (by simp)
    rw [Memory.read_cons, if_neg (by simp at hk; omega)]
    exact ih fun y hy => h y (by simp [hy])

/-- Offsets listed after a write are those listed before and the written one. -/
theorem Memory.mem_write {m : Memory} {o : Nat} {b : Byte} {x : Host.Cell} (h : x ∈ Memory.write m o b) :
    x ∈ m ∨ x = (o, b) := by
  induction m with
  | nil => unfold Memory.write at h; split at h <;> simp_all
  | cons y m ih =>
    obtain ⟨k, c⟩ := y
    unfold Memory.write at h
    split at h
    · split at h <;> simp_all
      rcases h with h | h <;> simp_all
    · split at h
      · split at h <;> simp_all
        rcases h with h | h <;> simp_all
      · simp only [List.mem_cons] at h
        rcases h with h | h
        · simp [h]
        · rcases ih h with h | h <;> simp [h]

/-- A write keeps the canonical form. -/
theorem Memory.write_wf {m : Memory} (o : Nat) (b : Byte) (h : Memory.wf m = true) :
    Memory.wf (Memory.write m o b) = true := by
  induction m with
  | nil => unfold Memory.write; split <;> simp_all [Memory.wf]
  | cons y m ih =>
    obtain ⟨k, c⟩ := y
    obtain ⟨hc, hlt, hw⟩ := Memory.wf_cons.1 h
    unfold Memory.write
    split
    · rename_i hok
      split
      · exact h
      · rename_i hb
        refine Memory.wf_cons.2 ⟨hb, ?_, h⟩
        intro x hx
        rcases List.mem_cons.1 hx with rfl | hx
        · exact hok
        · exact Nat.lt_trans hok (hlt x hx)
    · split
      · rename_i hok
        subst hok
        split
        · exact hw
        · rename_i hb
          exact Memory.wf_cons.2 ⟨hb, hlt, hw⟩
      · rename_i h1 h2
        refine Memory.wf_cons.2 ⟨hc, ?_, ih hw⟩
        intro x hx
        rcases Memory.mem_write hx with hx | rfl
        · exact hlt x hx
        · simp; omega

/-- What a read sees after a write to an array in canonical form. -/
theorem Memory.read_write {m : Memory} (h : Memory.wf m = true) (o o' : Nat) (b : Byte) :
    Memory.read (Memory.write m o b) o' = if o' = o then b else Memory.read m o' := by
  induction m with
  | nil =>
    unfold Memory.write
    split <;> simp_all [Memory.read_cons]
  | cons y m ih =>
    obtain ⟨k, c⟩ := y
    obtain ⟨hc, hlt, hw⟩ := Memory.wf_cons.1 h
    unfold Memory.write
    split
    · rename_i hok
      split
      · rename_i hb
        by_cases ho : o' = o
        · subst ho
          rw [if_pos rfl, hb]
          apply Memory.read_below
          intro x hx
          rcases List.mem_cons.1 hx with rfl | hx
          · exact hok
          · exact Nat.lt_trans hok (hlt x hx)
        · rw [if_neg ho]
      · rw [Memory.read_cons]
    · split
      · rename_i hok
        subst hok
        split
        · rename_i hb
          by_cases ho : o' = o
          · subst ho
            rw [if_pos rfl, hb]
            exact Memory.read_below hlt
          · rw [if_neg ho, Memory.read_cons, if_neg ho]
        · by_cases ho : o' = o <;> simp [Memory.read_cons, ho]
      · rename_i h1 h2
        rw [Memory.read_cons, Memory.read_cons, ih hw]
        by_cases hk : o' = k
        · subst hk
          rw [if_pos rfl, if_pos rfl, if_neg (fun e => h2 e.symm)]
        · rw [if_neg hk, if_neg hk]

/-- An erase keeps the canonical form. -/
theorem Memory.erase_wf {m : Memory} (o n : Nat) (h : Memory.wf m = true) : Memory.wf (Memory.erase m o n) = true := by
  induction n generalizing m o with
  | zero => exact h
  | succ n ih => exact ih (o + 1) (Memory.write_wf o 0x00 h)

/-- What a read sees after an erase of `n` bytes from `o` on. -/
theorem Memory.read_erase {m : Memory} (h : Memory.wf m = true) (o n o' : Nat) :
    Memory.read (Memory.erase m o n) o' = if o ≤ o' ∧ o' < o + n then 0x00 else Memory.read m o' := by
  induction n generalizing m o with
  | zero => rw [if_neg (by omega)]; rfl
  | succ n ih =>
    rw [Memory.erase, ih (Memory.write_wf o 0x00 h), Memory.read_write h]
    by_cases h1 : o + 1 ≤ o' ∧ o' < o + 1 + n
    · rw [if_pos h1, if_pos (by omega)]
    · rw [if_neg h1]
      by_cases h2 : o' = o
      · subst h2; rw [if_pos rfl, if_pos (by omega)]
      · rw [if_neg h2, if_neg (by omega)]

/-- A write keeps the offsets inside a span that holds the written one. -/
theorem Memory.write_span {m : Memory} {o n : Nat} {b : Byte} (h : ∀ x ∈ m, x.1 < n) (ho : o < n) :
    ∀ x ∈ Memory.write m o b, x.1 < n := by
  intro x hx
  rcases Memory.mem_write hx with hx | rfl
  · exact h x hx
  · exact ho

/-- An erase inside a span keeps the offsets inside it. -/
theorem Memory.erase_span {m : Memory} {o k n : Nat} (h : ∀ x ∈ m, x.1 < n) (ho : o + k ≤ n) :
    ∀ x ∈ Memory.erase m o k, x.1 < n := by
  induction k generalizing m o with
  | zero => exact h
  | succ k ih => exact ih (Memory.write_span h (by omega)) (by omega)

/-- A list of non-zero bytes by rising offset, as `FLASH_INIT` is, is in canonical form. -/
theorem Memory.wf_of_pairwise {m : Memory} (h : (m.map Prod.fst).Pairwise (· < ·)) (hb : ∀ x ∈ m, x.2 ≠ 0) :
    Memory.wf m = true := by
  induction m with
  | nil => rfl
  | cons y m ih =>
    obtain ⟨k, b⟩ := y
    simp only [List.map_cons, List.pairwise_cons] at h
    refine Memory.wf_cons.2 ⟨hb (k, b) (by simp), fun x hx => h.1 x.1 (List.mem_map_of_mem hx), ?_⟩
    exact ih h.2 fun x hx => hb x (by simp [hx])

/-- The memory after reset is in canonical form. -/
theorem reset_memory_wf : State.reset.flash.mem.wf = true := rfl

/-- `FlashOff` gives an offset exactly for an address of the window (R262). -/
theorem flashOff_eq_some {c : Cfg} {a : Word} {o : Nat} :
    flashOff c a = some o ↔ o < c.flashSize ∧ a.toNat = c.flashdBase + o := by
  unfold flashOff
  split
  · rename_i h
    simp only [Option.some.injEq]
    omega
  · rename_i h
    simp only [reduceCtorEq, false_iff]
    omega

theorem flashOff_eq_none {c : Cfg} {a : Word} :
    flashOff c a = none ↔ a.toNat < c.flashdBase ∨ c.flashdBase + c.flashSize ≤ a.toNat := by
  unfold flashOff
  split <;> simp <;> omega

/-- Every flash command keeps the array's canonical form (R275, R276). -/
theorem programmed_wf {c : Cfg} {f : FlashCtl} (h : f.mem.wf = true) : (programmed c f).wf = true := by
  unfold programmed
  split
  · exact h
  · exact Memory.write_wf _ _ h

theorem erased_wf {c : Cfg} {f : FlashCtl} (h : f.mem.wf = true) : (erased c f).wf = true := by
  unfold erased
  split
  · split
    · exact Memory.erase_wf _ _ h
    · exact h
  · exact h

end Sys2Proof.Machine
end

