-- ==== Sys2Proof/Laws/Ops.lean ====
section
/-! SUPPORT. For each shared operation of the units, one lemma that says once everything it does: the exact next state
in each case, or the fields it leaves alone. Later proofs cite these and do not unfold the operation. -/

namespace Sys2Proof.Machine

/-! ## Timer -/

/-- Bringing an agent into being only counts the free value it takes (R191). -/
theorem spawn_spec (s : State) :
    (s.cfg.spawnMayFail = false ∧ spawn s = (true, s)) ∨
    (s.cfg.spawnMayFail = true ∧
      spawn s = (Config.spawnSucceeds s.spawnCtr, { s with spawnCtr := s.spawnCtr + 1 })) := by
  unfold spawn
  cases h : s.cfg.spawnMayFail <;> simp

/-- The outcomes of a start command (R186). -/
theorem startTimer_spec (n : Nat) (s : State) :
    ((s.timer n).running = true ∧ startTimer n s = s.setTimer n { s.timer n with stopReq := false }) ∨
    ((s.timer n).running = false ∧ timerFreqValid s.cfg (s.timer n).tmod = false ∧ startTimer n s = s) ∨
    ((s.timer n).running = false ∧ timerFreqValid s.cfg (s.timer n).tmod = true ∧
      startTimer n s = (spawn s).2.setTimer n
        { s.timer n with
          running := true
          stopReq := false
          tphase := if (spawn s).1 then .check else .off }) := by
  unfold startTimer
  cases h : (s.timer n).running <;> cases h' : timerFreqValid s.cfg (s.timer n).tmod <;> simp [h, h']

/-- The outcomes of `T.CHECK` (R196). -/
theorem checkedTimer_spec (c : Cfg) (t : TimerCh) :
    (t.stopReq = true ∧ checkedTimer c t = { t with running := false, stopReq := false, tphase := .off }) ∨
    (t.stopReq = false ∧ timerFreqValid c t.tmod = true ∧
      checkedTimer c t = { t with tphase := .sleep (timerIntervalUs c t.tcnt t.tmod) }) ∨
    (t.stopReq = false ∧ timerFreqValid c t.tmod = false ∧
      checkedTimer c t = { t with running := false, tphase := .off }) := by
  unfold checkedTimer endedTimer
  cases h : t.stopReq <;> cases h' : timerFreqValid c t.tmod <;> simp

/-- The outcomes of `T.EXPIRE` for the channel (R197). -/
theorem expiredTimer_spec (c : Cfg) (t : TimerCh) :
    (repeatMode c t.tmod = true ∧ expiredTimer c t = { t with tphase := .check }) ∨
    (repeatMode c t.tmod = false ∧
      expiredTimer c t = { t with running := false, stopReq := false, tphase := .off }) := by
  unfold expiredTimer endedTimer
  cases h : repeatMode c t.tmod <;> simp

/-! ## Serial -/

/-- The outcomes of a receive-data read for the state (R223). -/
theorem popSerial_spec (ch : Nat) (s : State) :
    ((s.serial ch).rxCount = 0 ∧ popSerial ch s = s) ∨
    ((s.serial ch).rxCount = 1 ∧
      popSerial ch s = irqClear (rxrLine s.cfg ch) (s.setSerial ch (popByte s.cfg.rxCap (s.serial ch)))) ∨
    (1 < (s.serial ch).rxCount ∧ popSerial ch s = s.setSerial ch (popByte s.cfg.rxCap (s.serial ch))) := by
  unfold popSerial
  by_cases h0 : (s.serial ch).rxCount = 0
  · simp [h0]
  · by_cases h1 : (s.serial ch).rxCount = 1
    · simp [h1, popByte]
    · have h2 : ¬ (s.serial ch).rxCount - 1 = 0 := by omega
      simp [h0, h1, h2, popByte]
      omega

/-! ## Cipher -/

/-- The transform changes the output and the chain value only (R323). -/
theorem transform_frame (c : Cfg) (u : CipherUnit) :
    transform c u = { u with civ := (transform c u).civ, cdout := (transform c u).cdout } := by
  unfold transform
  cases cipherCbc c u.ccmd <;> cases cipherDecrypt c u.ccmd <;> rfl

/-- The transform leaves the chain value alone in ECB (R323). -/
theorem transform_ecb_civ (c : Cfg) (u : CipherUnit) (h : cipherCbc c u.ccmd = false) :
    (transform c u).civ = u.civ := by
  unfold transform
  rw [h]
  cases cipherDecrypt c u.ccmd <;> rfl

/-- The outcomes of an input word (R319). -/
theorem cipherInput_spec (c : Cfg) (v : Word) (u : CipherUnit) :
    (u.dinIdx ≠ 3 ∧ cipherInput c v u =
      { u with cdin := quadSet u.cdin u.dinIdx (bswap32 v), dinIdx := nextIdx u.dinIdx }) ∨
    (u.dinIdx = 3 ∧ cipherInput c v u =
      { transform c { u with cdin := quadSet u.cdin 3 (bswap32 v) } with dinIdx := 0 }) := by
  unfold cipherInput
  by_cases h : u.dinIdx = 3 <;> simp [h]

theorem nextIdx_eq (i : Fin 4) : nextIdx i = i + 1 := by revert i; decide

@[simp] theorem quadGet_quadSet_same (q : Quad) (i : Fin 4) (v : Word) : quadGet (quadSet q i v) i = v := by
  revert i; intro i; match i with
  | 0 => rfl
  | 1 => rfl
  | 2 => rfl
  | 3 => rfl

/-! ## The pin-state collaborator -/

/-- `PinSet` writes the collaborator's state only (R352). -/
theorem pinSet_frame (p : Nat) (dir out : Half) (s : State) :
    pinSet p dir out s = { s with collab := (pinSet p dir out s).collab } := by
  unfold pinSet
  cases s.cfg.collab <;> rfl

/-- `PinSet` of the null collaborator (R352). -/
theorem pinSet_null (p : Nat) (dir out : Half) (s : State) (h : s.cfg.collab = .null) :
    pinSet p dir out s = s.setPins p { s.pins p with dir := dir, out := out } := by
  unfold pinSet
  rw [h]

/-- `PinGet` of the null collaborator (R352). -/
theorem pinGet_null (p : Nat) (s : State) (h : s.cfg.collab = .null) :
    pinGet s p = ((s.pins p).dir, (s.pins p).out, pinLevels (s.pins p)) := by
  unfold pinGet
  rw [h]

/-- The level of one pin (R352). -/
theorem pinLevels_getLsbD (x : PinVec) (i : Nat) (h : i < 16) :
    (pinLevels x).getLsbD i = if x.dir.getLsbD i then x.out.getLsbD i else x.ext.getLsbD i := by
  simp only [pinLevels, BitVec.getLsbD_or, BitVec.getLsbD_and, BitVec.getLsbD_not]
  cases x.dir.getLsbD i <;> simp [h]

/-- What an override of the null collaborator can do: the vectors of one port, each a new value or as it was (R353). -/
theorem envPinOverride_spec {p : Nat} {dir out ext : Option Half} {s s' : State}
    (h : envPinOverride p dir out ext s = .next s') : s.cfg.collab = .null ∧ p < s.cfg.numPorts ∧
      s' = s.setPins p ⟨dir.getD (s.pins p).dir, out.getD (s.pins p).out, ext.getD (s.pins p).ext⟩ := by
  unfold envPinOverride at h
  split at h
  · rename_i hc
    rw [Bool.and_eq_true, decide_eq_true_eq, decide_eq_true_eq] at hc
    cases h
    exact ⟨hc.1, hc.2, rfl⟩
  · cases h

/-- What an override of an external collaborator can do: one of the moves of its relation (R352, R353). -/
theorem envPinOverrideExt_spec {p token : Nat} {s s' : State} (h : envPinOverrideExt p token s = .next s') :
    s.cfg.collab = .external ∧ p < s.cfg.numPorts ∧ Config.extMoves p s.collab.token token = true ∧
      s' = { s with collab := { s.collab with token := token } } := by
  unfold envPinOverrideExt at h
  split at h
  · rename_i hc
    rw [Bool.and_eq_true, Bool.and_eq_true, decide_eq_true_eq, decide_eq_true_eq] at hc
    cases h
    exact ⟨hc.1.1, hc.1.2, hc.2, rfl⟩
  · cases h

end Sys2Proof.Machine
end

