-- ==== Sys2Proof/Laws/Ring.lean ====
section
/-! SUPPORT. The laws of the receive ring buffer: its invariant is kept by a push and a pop, and what each does to the
unread bytes (R38, R223, R230). -/

namespace Sys2Proof.Machine

/-- The part of R38 that the ring buffer's own fields say. -/
abbrev RingOk (cap : Nat) (x : SerialCh) : Prop :=
  x.rxBuf.length = cap ∧ x.rxStart < cap ∧ x.rxEnd < cap ∧ x.rxCount ≤ cap ∧ x.rxEnd = (x.rxStart + x.rxCount) % cap

theorem SerialOk.ring {c : Cfg} {ch : Nat} {x : SerialCh} (h : SerialOk c ch x) : RingOk c.rxCap x :=
  ⟨h.1, h.2.1, h.2.2.1, h.2.2.2.1, h.2.2.2.2.1⟩

/-- Two positions of the ring less than `cap` apart are different places. -/
theorem ring_position_inj {cap a i j : Nat} (hi : i < cap) (hj : j < cap) (h : (a + i) % cap = (a + j) % cap) : i = j := by
  have h' : i ≡ j [MOD cap] := Nat.ModEq.add_left_cancel' a h
  exact Nat.ModEq.eq_of_lt_of_lt h' hi hj

theorem unread_length (cap : Nat) (x : SerialCh) : (unread cap x).length = x.rxCount := by simp [unread]

theorem unread_getElem? (cap : Nat) (x : SerialCh) (k : Nat) :
    (unread cap x)[k]? = if k < x.rxCount then some (x.rxBuf.getD ((x.rxStart + k) % cap) 0x00) else none := by
  simp only [unread, List.getElem?_map]
  split <;> simp_all

/-- The unread bytes are a function of storage, start and count only. -/
theorem unread_congr {cap : Nat} {x y : SerialCh} (h1 : y.rxBuf = x.rxBuf) (h2 : y.rxStart = x.rxStart)
    (h3 : y.rxCount = x.rxCount) : unread cap y = unread cap x := by
  simp [unread, h1, h2, h3]

/-- A push keeps the ring buffer's invariant. -/
theorem pushByte_ring {cap : Nat} {x : SerialCh} (b : Byte) (h : RingOk cap x) : RingOk cap (pushByte cap x b) := by
  obtain ⟨h1, h2, h3, h4, h5⟩ := h
  have hpos : 0 < cap := by omega
  unfold pushByte
  by_cases hf : x.rxCount = cap
  · refine ⟨?_, ?_, ?_, ?_, ?_⟩ <;> simp only [hf, if_true]
    · simpa using h1
    · exact Nat.mod_lt _ hpos
    · exact Nat.mod_lt _ hpos
    · exact Nat.le_refl _
    · rw [h5, hf]; simp
  · refine ⟨?_, ?_, ?_, ?_, ?_⟩ <;> simp only [hf, if_false]
    · simpa using h1
    · exact h2
    · exact Nat.mod_lt _ hpos
    · omega
    · rw [h5]; simp [Nat.add_assoc]

/-- A pop of a non-empty buffer keeps the invariant. -/
theorem popByte_ring {cap : Nat} {x : SerialCh} (h : RingOk cap x) (hc : x.rxCount ≠ 0) :
    RingOk cap (popByte cap x) := by
  obtain ⟨h1, h2, h3, h4, h5⟩ := h
  have hpos : 0 < cap := by omega
  refine ⟨h1, Nat.mod_lt _ hpos, h3, by simp only [popByte]; omega, ?_⟩
  simp only [popByte, h5, Nat.mod_add_mod]
  congr 1
  omega

/-- A push into a buffer that is not full appends the byte to the unread ones (R230). -/
theorem unread_pushByte_room {cap : Nat} {x : SerialCh} (b : Byte) (h : RingOk cap x) (hc : x.rxCount ≠ cap) :
    unread cap (pushByte cap x b) = unread cap x ++ [b] := by
  obtain ⟨h1, h2, h3, h4, h5⟩ := h
  apply List.ext_getElem?
  intro k
  simp only [unread_getElem?, List.getElem?_append, unread_length]
  simp only [pushByte, hc, if_false]
  by_cases hk : k < x.rxCount
  · rw [if_pos (by omega), if_pos hk, if_pos hk]
    congr 1
    rw [List.getD_eq_getElem?_getD, List.getD_eq_getElem?_getD, List.getElem?_set_ne]
    rw [h5]
    intro he
    have := ring_position_inj (by omega) (by omega) he
    omega
  · rw [if_neg hk]
    by_cases hk' : k = x.rxCount
    · subst hk'
      rw [if_pos (by omega), ← h5]
      simp [h1, h3]
    · rw [if_neg (by omega)]
      have : k - x.rxCount ≠ 0 := by omega
      simp [this]

/-- A push into a full buffer loses the oldest unread byte and appends the new one (R230). -/
theorem unread_pushByte_full {cap : Nat} {x : SerialCh} (b : Byte) (h : RingOk cap x) (hc : x.rxCount = cap) :
    unread cap (pushByte cap x b) = (unread cap x).tail ++ [b] := by
  obtain ⟨h1, h2, h3, h4, h5⟩ := h
  have hpos : 0 < cap := by omega
  have hend : x.rxEnd = x.rxStart := by rw [h5, hc, Nat.add_mod_right, Nat.mod_eq_of_lt h2]
  apply List.ext_getElem?
  intro k
  simp only [unread_getElem?, List.getElem?_append, List.getElem?_tail, List.length_tail, unread_length]
  simp only [pushByte, hc, if_true]
  have hmod : ((x.rxStart + 1) % cap + k) % cap = (x.rxStart + (k + 1)) % cap := by
    rw [Nat.mod_add_mod]; congr 1; omega
  rw [hmod]
  by_cases hk : k < cap - 1
  · rw [if_pos (by omega), if_pos hk, if_pos (by omega)]
    congr 1
    rw [List.getD_eq_getElem?_getD, List.getD_eq_getElem?_getD, List.getElem?_set_ne]
    rw [hend]
    intro he
    have he' : (x.rxStart + 0) % cap = (x.rxStart + (k + 1)) % cap := by
      rw [Nat.add_zero, Nat.mod_eq_of_lt h2]; exact he
    have := ring_position_inj hpos (by omega) he'
    omega
  · rw [if_neg hk]
    by_cases hk' : k = cap - 1
    · subst hk'
      rw [if_pos (by omega)]
      have : (x.rxStart + (cap - 1 + 1)) % cap = x.rxEnd := by
        rw [Nat.sub_add_cancel hpos, Nat.add_mod_right, Nat.mod_eq_of_lt h2, hend]
      rw [this]
      simp [h1, h3]
    · rw [if_neg (by omega)]
      have : k - (cap - 1) ≠ 0 := by omega
      simp [this]

/-- A pop takes the oldest unread byte (R223). -/
theorem unread_popByte {cap : Nat} {x : SerialCh} :
    unread cap (popByte cap x) = (unread cap x).tail := by
  apply List.ext_getElem?
  intro k
  simp only [unread_getElem?, List.getElem?_tail, popByte]
  have hmod : ((x.rxStart + 1) % cap + k) % cap = (x.rxStart + (k + 1)) % cap := by
    rw [Nat.mod_add_mod]; congr 1; omega
  rw [hmod]
  by_cases hk : k < x.rxCount - 1
  · rw [if_pos hk, if_pos (by omega)]
  · rw [if_neg hk, if_neg (by omega)]

/-- The front of a non-empty buffer is the oldest unread byte (R223). -/
theorem frontByte_eq_head {cap : Nat} {x : SerialCh} (h : RingOk cap x) (hc : x.rxCount ≠ 0) :
    (unread cap x).head? = some (frontByte x) := by
  rw [List.head?_eq_getElem?, unread_getElem?, if_pos (by omega), Nat.add_zero, Nat.mod_eq_of_lt h.2.1]
  rfl

/-- A push of one byte, full or not: the last `cap` of the unread bytes and the new one. -/
theorem unread_pushByte {cap : Nat} {x : SerialCh} (b : Byte) (h : RingOk cap x) :
    unread cap (pushByte cap x b) = lastOnes cap (unread cap x ++ [b]) := by
  have hpos : 0 < cap := by have := h.2.1; omega
  unfold lastOnes
  by_cases hc : x.rxCount = cap
  · rw [unread_pushByte_full b h hc]
    have hne : 1 ≤ (unread cap x).length := by rw [unread_length]; omega
    simp only [List.length_append, unread_length, List.length_singleton, hc]
    rw [show cap + 1 - cap = 1 by omega, List.drop_append_of_le_length hne, List.drop_one]
  · rw [unread_pushByte_room b h hc]
    have : x.rxCount ≤ cap := h.2.2.2.1
    simp only [List.length_append, unread_length, List.length_singleton]
    rw [show x.rxCount + 1 - cap = 0 by omega, List.drop_zero]

/-- Keeping the last `cap` of the last `cap` and more is keeping the last `cap`. -/
theorem lastOnes_append {α : Type} (cap : Nat) (a b : List α) :
    lastOnes cap (lastOnes cap a ++ b) = lastOnes cap (a ++ b) := by
  simp only [lastOnes, List.length_append, List.length_drop]
  by_cases h : a.length ≤ cap
  · simp [Nat.sub_eq_zero_of_le h]
  · have e1 : a.length - (a.length - cap) + b.length - cap = b.length := by omega
    rw [e1, show a.length + b.length - cap = (a.length - cap) + b.length by omega, ← List.drop_drop,
      List.drop_append_of_le_length (by omega : a.length - cap ≤ a.length)]

theorem lastOnes_of_le {α : Type} {cap : Nat} {l : List α} (h : l.length ≤ cap) : lastOnes cap l = l := by
  simp [lastOnes, Nat.sub_eq_zero_of_le h]

/-- A chunk keeps the invariant. -/
theorem pushChunk_ring {cap : Nat} {x : SerialCh} (bs : List Byte) (h : RingOk cap x) :
    RingOk cap (pushChunk cap x bs) := by
  induction bs generalizing x with
  | nil => exact h
  | cons b bs ih => exact ih (pushByte_ring b h)

/-- A chunk leaves the last `cap` of the unread bytes followed by it (R236). -/
theorem unread_pushChunk {cap : Nat} {x : SerialCh} (bs : List Byte) (h : RingOk cap x) :
    unread cap (pushChunk cap x bs) = lastOnes cap (unread cap x ++ bs) := by
  induction bs generalizing x with
  | nil =>
    rw [List.append_nil, lastOnes_of_le (by rw [unread_length]; exact h.2.2.2.1)]
    rfl
  | cons b bs ih =>
    have := ih (x := pushByte cap x b) (pushByte_ring b h)
    rw [pushChunk, List.foldl_cons, ← pushChunk, this, unread_pushByte b h, lastOnes_append, List.append_assoc]
    rfl

/-- A chunk touches the ring buffer's fields only. -/
theorem pushChunk_frame (cap : Nat) (x : SerialCh) (bs : List Byte) :
    (pushChunk cap x bs).stxd = x.stxd ∧ (pushChunk cap x bs).sctl = x.sctl ∧
    (pushChunk cap x bs).rxPending = x.rxPending ∧ (pushChunk cap x bs).rxIn = x.rxIn ∧
    (pushChunk cap x bs).txOut = x.txOut := by
  induction bs generalizing x with
  | nil => simp [pushChunk]
  | cons b bs ih =>
    have h := ih (pushByte cap x b)
    have hp : (pushByte cap x b).stxd = x.stxd ∧ (pushByte cap x b).sctl = x.sctl ∧
        (pushByte cap x b).rxPending = x.rxPending ∧ (pushByte cap x b).rxIn = x.rxIn ∧
        (pushByte cap x b).txOut = x.txOut := by
      unfold pushByte; split <;> simp
    simpa [pushChunk, hp] using h

/-- After a non-empty chunk there is something to read. -/
theorem pushChunk_count_pos {cap : Nat} {x : SerialCh} {bs : List Byte} (h : RingOk cap x) (hb : bs ≠ []) :
    0 < (pushChunk cap x bs).rxCount := by
  have hl : (unread cap (pushChunk cap x bs)).length = (lastOnes cap (unread cap x ++ bs)).length :=
    congrArg _ (unread_pushChunk bs h)
  have hpos : 0 < bs.length := List.length_pos_iff.2 hb
  have hcap : 0 < cap := by have := h.2.1; omega
  rw [unread_length] at hl
  rw [hl]
  simp only [lastOnes, List.length_drop, List.length_append]
  omega

end Sys2Proof.Machine
end

