-- ==== Sys2Proof/Laws/Invariant.lean ====
section
/-! SUPPORT. The invariant of the machine under each named update: a proof about a step cites these and checks only the
unit the step writes. -/

namespace Sys2Proof.Machine

/-- The invariant is about the block's own state only. -/
theorem Inv_congr {s t : State} (h : s.Inv) (h0 : t.cfg = s.cfg) (h1 : t.timers = s.timers) (h2 : t.serials = s.serials)
    (h3 : t.flash = s.flash) (h4 : t.ports = s.ports) (h5 : t.collab.pins = s.collab.pins) (h6 : t.irqHigh = s.irqHigh)
    (h7 : t.hist = s.hist) : t.Inv := by
  obtain ⟨i0, i1, i2, i3, i4, i5, i6, i7, i8, i9, i10⟩ := h
  refine ⟨by rw [h0]; exact i0, by rw [h0, h1]; exact i1, by rw [h0, h2]; exact i2, by rw [h0, h4]; exact i3,
    by rw [h0, h5]; exact i4, by rw [h0, h1]; exact i5, ?_, by rw [h0, h3]; exact i7, by rw [h6]; exact i8,
    by rw [h0, h6]; exact i9, by rw [h0, h7]; exact i10⟩
  intro ch hch
  have e : t.serial ch = s.serial ch := by simp only [State.serial, h0, h2]
  rw [e, h0]
  rw [h0] at hch
  exact i6 ch hch

theorem Inv_respond {s : State} (r : Resp) (h : s.Inv) : (s.respond r).Inv := Inv_congr h rfl rfl rfl rfl rfl rfl rfl rfl

theorem Inv_schedule {s : State} (as : List Action) (h : s.Inv) : ({ s with schedule := as } : State).Inv :=
  Inv_congr h rfl rfl rfl rfl rfl rfl rfl rfl

theorem Inv_spawn {s : State} (h : s.Inv) : (spawn s).2.Inv := by
  rcases spawn_spec s with ⟨_, e⟩ | ⟨_, e⟩ <;> rw [e]
  · exact h
  · exact Inv_congr h rfl rfl rfl rfl rfl rfl rfl rfl

theorem Inv_setCipher {s : State} (u : CipherUnit) (h : s.Inv) : (s.setCipher u).Inv :=
  Inv_congr h rfl rfl rfl rfl rfl rfl rfl rfl

theorem Inv_setTimer {s : State} {n : Nat} {t : TimerCh} (ht : TimerOk s.cfg t) (h : s.Inv) : (s.setTimer n t).Inv := by
  obtain ⟨i0, i1, i2, i3, i4, i5, i6⟩ := h
  refine ⟨i0, by rw [setTimer_timers, List.length_set]; exact i1, i2, i3, i4, ?_, i6⟩
  intro x hx
  rw [setTimer_timers] at hx
  rcases List.mem_or_eq_of_mem_set hx with hx | rfl
  · exact i5 x hx
  · exact ht

theorem Inv_setSerial {s : State} {ch : Nat} {x : SerialCh} (hx : ch < s.cfg.numSerial → SerialOk s.cfg ch x)
    (h : s.Inv) : (s.setSerial ch x).Inv := by
  obtain ⟨i0, i1, i2, i3, i4, i5, i6, i7⟩ := h
  refine ⟨i0, i1, by rw [setSerial_serials, List.length_set]; exact i2, i3, i4, i5, ?_, i7⟩
  intro c hc
  by_cases hcc : c = ch
  · subst hcc
    have : (s.setSerial c x).serial c = x := by
      rw [State.serial, setSerial_serials, List.getD_eq_getElem?_getD, List.getElem?_set_self (by rw [i2]; exact hc)]
      rfl
    rw [this]
    exact hx hc
  · have : (s.setSerial ch x).serial c = s.serial c := by
      rw [State.serial, State.serial, setSerial_serials, setSerial_cfg, List.getD_eq_getElem?_getD,
        List.getD_eq_getElem?_getD, List.getElem?_set_ne (Ne.symm hcc)]
    rw [this]
    exact i6 c hc

theorem Inv_setPort {s : State} {p : Nat} {x : GpioPort} (h : s.Inv) : (s.setPort p x).Inv := by
  obtain ⟨i0, i1, i2, i3, i4⟩ := h
  exact ⟨i0, i1, i2, by rw [setPort_ports, List.length_set]; exact i3, i4⟩

theorem Inv_setPins {s : State} {p : Nat} {x : PinVec} (h : s.Inv) : (s.setPins p x).Inv := by
  obtain ⟨i0, i1, i2, i3, i4, i5⟩ := h
  refine ⟨i0, i1, i2, i3, ?_, i5⟩
  rw [setPins_collab, setPins_cfg, List.length_set]
  exact i4

theorem Inv_pinSet {s : State} {p : Nat} {dir out : Half} (h : s.Inv) : (pinSet p dir out s).Inv := by
  unfold pinSet
  split
  · exact Inv_setPins h
  · exact Inv_congr h rfl rfl rfl rfl rfl rfl rfl rfl

theorem Inv_setFlash {s : State} {f : FlashCtl} (hf : FlashOk s.cfg f) (h : s.Inv) : (s.setFlash f).Inv := by
  obtain ⟨i0, i1, i2, i3, i4, i5, i6, _, i8⟩ := h
  exact ⟨i0, i1, i2, i3, i4, i5, i6, hf, i8⟩

theorem Inv_irqAssert {s : State} {l : Option Nat} (hl : ∀ m, l = some m → m ∈ s.cfg.lineIds) (h : s.Inv) :
    (irqAssert l s).Inv := by
  cases l with
  | none => exact h
  | some m =>
    obtain ⟨i0, i1, i2, i3, i4, i5, i6, i7, i8, i9, i10⟩ := h
    refine ⟨i0, i1, i2, i3, i4, i5, i6, i7, raiseLine_sorted i8, ?_, ?_⟩
    · intro k hk
      rcases mem_raiseLine.1 hk with rfl | hk
      · exact hl _ rfl
      · exact i9 k hk
    · intro e he
      rcases List.mem_append.1 he with he | he
      · exact i10 e he
      · rw [List.mem_singleton.1 he]
        exact hl _ rfl

theorem Inv_irqClear {s : State} {l : Option Nat} (hl : ∀ m, l = some m → m ∈ s.cfg.lineIds) (h : s.Inv) :
    (irqClear l s).Inv := by
  cases l with
  | none => exact h
  | some m =>
    obtain ⟨i0, i1, i2, i3, i4, i5, i6, i7, i8, i9, i10⟩ := h
    refine ⟨i0, i1, i2, i3, i4, i5, i6, i7, lowerLine_sorted i8, ?_, ?_⟩
    · intro k hk
      exact i9 k (mem_lowerLine.1 hk).1
    · intro e he
      rcases List.mem_append.1 he with he | he
      · exact i10 e he
      · rw [List.mem_singleton.1 he]
        exact hl _ rfl

theorem Inv_irqPulse {s : State} {l : Option Nat} {label : Option Nat} (hl : ∀ m, l = some m → m ∈ s.cfg.lineIds)
    (h : s.Inv) : (irqPulse l label s).Inv := by
  cases l with
  | none => exact h
  | some m =>
    obtain ⟨i0, i1, i2, i3, i4, i5, i6, i7, i8, i9, i10⟩ := h
    refine ⟨i0, i1, i2, i3, i4, i5, i6, i7, lowerLine_sorted i8, ?_, ?_⟩
    · intro k hk
      exact i9 k (mem_lowerLine.1 hk).1
    · intro e he
      rcases List.mem_append.1 he with he | he
      · exact i10 e he
      · rw [List.mem_singleton.1 he]
        exact hl _ rfl

/-- The lines of a channel are of the line table. -/
theorem txeLine_mem {c : Cfg} {ch l : Nat} (h : txeLine c ch = some l) : l ∈ c.lineIds := by
  cases hl : linesOf c ch with
  | none => simp [txeLine, hl] at h
  | some x => simp [txeLine, hl] at h; exact h ▸ (linesOf_mem hl).1

theorem txcLine_mem {c : Cfg} {ch l : Nat} (h : txcLine c ch = some l) : l ∈ c.lineIds := by
  cases hl : linesOf c ch with
  | none => simp [txcLine, hl] at h
  | some x => simp [txcLine, hl] at h; exact h ▸ (linesOf_mem hl).2.1

theorem rxrLine_mem {c : Cfg} {ch l : Nat} (h : rxrLine c ch = some l) : l ∈ c.lineIds := by
  cases hl : linesOf c ch with
  | none => simp [rxrLine, hl] at h
  | some x => simp [rxrLine, hl] at h; exact h ▸ (linesOf_mem hl).2.2

/-- The array after a write or erase command stays inside its span. -/
theorem programmed_span {c : Cfg} {f : FlashCtl} (h : ∀ x ∈ f.mem, x.1 < c.flashSize) :
    ∀ x ∈ programmed c f, x.1 < c.flashSize := by
  unfold programmed
  split
  · exact h
  · rename_i o ho
    exact Memory.write_span h (flashOff_eq_some.1 ho).1

theorem erased_span {c : Cfg} {f : FlashCtl} (h : ∀ x ∈ f.mem, x.1 < c.flashSize) :
    ∀ x ∈ erased c f, x.1 < c.flashSize := by
  unfold erased
  split
  · rename_i a b ha hb
    split
    · exact Memory.erase_span h (by have := (flashOff_eq_some.1 hb).1; omega)
    · exact h
  · exact h

end Sys2Proof.Machine
end

