-- ==== Sys2Proof/Laws/Windows.lean ====
section
/-! SUPPORT. The register address table of a well-formed configuration: an address of a window has that window and no
other (R96, R97), and which windows there are (R95). -/

namespace Sys2Proof

theorem Window.covers_iff {w : Window} {a : Nat} : w.covers a = true ↔ w.base ≤ a ∧ a < w.base + w.size := by
  simp [Window.covers]

/-- In a list of pairwise disjoint windows, the first one that covers an address is any one that covers it. -/
theorem find_window {ws : List Window} (h : ws.Pairwise Window.Disjoint) {w : Window} (hw : w ∈ ws) {a : Nat}
    (ha : w.covers a = true) : ws.find? (·.covers a) = some w := by
  induction ws with
  | nil => simp at hw
  | cons v vs ih =>
    obtain ⟨hv, hvs⟩ := List.pairwise_cons.1 h
    rcases List.mem_cons.1 hw with rfl | hw
    · simp [ha]
    · have hd := hv w hw
      have hnv : v.covers a = false := by
        rw [Bool.eq_false_iff]
        intro hc
        rw [Window.covers_iff] at ha hc
        unfold Window.Disjoint at hd
        omega
      simp [hnv, ih hvs hw]

/-- An address of a window of a well-formed configuration has that window (R97). -/
theorem windowOf_of_covers {c : Cfg} (h : c.WF) {w : Window} (hw : w ∈ c.windows) {a : Nat} (ha : w.covers a = true) :
    windowOf c a = some w := find_window (h.1.1.filter _) hw ha

/-- The window an address has is one of the table and covers the address. -/
theorem windowOf_some {c : Cfg} {w : Window} {a : Nat} (h : windowOf c a = some w) :
    w ∈ c.windows ∧ w.covers a = true :=
  ⟨List.mem_of_find?_eq_some h, by simpa using List.find?_some h⟩

/-- An address has no window exactly where no window covers it (R98). -/
theorem windowOf_none {c : Cfg} {a : Nat} : windowOf c a = none ↔ ∀ w ∈ c.windows, w.covers a = false := by
  simp [windowOf]

/-- The windows that answer are windows of the table (R7, R95). -/
theorem mem_addressTable_of_mem_windows {c : Cfg} {w : Window} (h : w ∈ c.windows) : w ∈ c.addressTable :=
  (List.mem_filter.1 h).1

/-- An address of a window of a well-formed configuration is one of the address space (R12 (a)). -/
theorem covers_lt {c : Cfg} (h : c.WF) {w : Window} (hw : w ∈ c.windows) {a : Nat} (ha : w.covers a = true) :
    a < 2 ^ c.addrBits := by
  have h1 := h.1.2 w (mem_addressTable_of_mem_windows hw)
  rw [Window.covers_iff] at ha
  omega

/-- An access at an offset of a window decodes as the window's owner decodes that offset (R123). -/
theorem decodeAccess_of_window {c : Cfg} (h : c.WF) {w : Window} (hw : w ∈ c.windows) {off : Nat} (ho : off < w.size)
    {a : Access} (ha : a.addr = w.base + off) :
    decodeAccess c a = match w.owner with
      | .timer n => decodeTimer c n off a
      | .serial ch => decodeSerial c ch off a
      | .flashc => decodeFlashc c off a
      | .cipher => decodeCipher c off a
      | .gpio => decodeGpio c off a
      | .flashd => decodeFlashd off a := by
  unfold decodeAccess
  rw [ha, windowOf_of_covers h hw (Window.covers_iff.2 ⟨by omega, by omega⟩)]
  obtain ⟨base, size, owner⟩ := w
  cases owner <;> simp only [Nat.add_sub_cancel_left]

/-- Without the cipher unit, every address of its window is in no window (R7, R163). -/
theorem windowOf_absent_cipher {c : Cfg} (h : c.WF) (hu : c.cipherUnit = false) {a : Nat} (h1 : c.cipherBase ≤ a)
    (h2 : a < c.cipherBase + c.cipherSize) : windowOf c a = none := by
  rw [windowOf_none]
  intro w hw
  obtain ⟨ht, ho⟩ := List.mem_filter.1 hw
  have ho' : w.owner ≠ .cipher := by simpa [hu] using ho
  have hc : (⟨c.cipherBase, c.cipherSize, .cipher⟩ : Window) ∈ c.addressTable := by simp [Cfg.addressTable]
  rw [Bool.eq_false_iff]
  intro hcov
  have e1 := find_window h.1.1 ht hcov
  have e2 := find_window h.1.1 hc (a := a) (by rw [Window.covers_iff]; exact ⟨h1, h2⟩)
  rw [e1] at e2
  exact ho' (by rw [Option.some.inj e2])

/-- The windows of the table, by their owner (R95). -/
theorem mem_windows {c : Cfg} {w : Window} : w ∈ c.windows ↔
    (∃ n, n < c.numTimer ∧ w = ⟨c.timerBase + n * c.timerStride, c.timerStride, .timer n⟩) ∨
    (∃ ch, ch < c.numSerial ∧ w = ⟨c.serialBase + ch * c.serialStride, c.serialStride, .serial ch⟩) ∨
    w = ⟨c.flashcBase, c.flashcSize, .flashc⟩ ∨
    (c.cipherUnit = true ∧ w = ⟨c.cipherBase, c.cipherSize, .cipher⟩) ∨
    w = ⟨c.gpioBase, c.gpioSlots * c.gpioStride, .gpio⟩ ∨ w = ⟨c.flashdBase, c.flashSize, .flashd⟩ := by
  have ht : w ∈ c.addressTable ↔
      (∃ n, n < c.numTimer ∧ w = ⟨c.timerBase + n * c.timerStride, c.timerStride, .timer n⟩) ∨
      (∃ ch, ch < c.numSerial ∧ w = ⟨c.serialBase + ch * c.serialStride, c.serialStride, .serial ch⟩) ∨
      w = ⟨c.flashcBase, c.flashcSize, .flashc⟩ ∨ w = ⟨c.cipherBase, c.cipherSize, .cipher⟩ ∨
      w = ⟨c.gpioBase, c.gpioSlots * c.gpioStride, .gpio⟩ ∨ w = ⟨c.flashdBase, c.flashSize, .flashd⟩ := by
    simp only [Cfg.addressTable, List.mem_append, List.mem_map, List.mem_range, List.mem_cons, List.not_mem_nil,
      or_false, or_assoc, eq_comm (b := w)]
  rw [Cfg.windows, List.mem_filter, ht]
  constructor
  · rintro ⟨h | h | h | h | h, ho⟩
    · exact .inl h
    · exact .inr (.inl h)
    · exact .inr (.inr (.inl h))
    · subst h; exact .inr (.inr (.inr (.inl ⟨by simpa using ho, rfl⟩)))
    · exact .inr (.inr (.inr (.inr h)))
  · rintro (⟨n, hn, rfl⟩ | ⟨ch, hch, rfl⟩ | rfl | ⟨hu, rfl⟩ | rfl | rfl)
    · exact ⟨.inl ⟨n, hn, rfl⟩, by simp⟩
    · exact ⟨.inr (.inl ⟨ch, hch, rfl⟩), by simp⟩
    · exact ⟨.inr (.inr (.inl rfl)), by simp⟩
    · exact ⟨.inr (.inr (.inr (.inl rfl))), by simp [hu]⟩
    · exact ⟨.inr (.inr (.inr (.inr (.inl rfl)))), by simp⟩
    · exact ⟨.inr (.inr (.inr (.inr (.inr rfl)))), by simp⟩

/-! ## Transaction words -/

theorem widthOfSize_sizeOfWidth (w : Width) : widthOfSize (sizeOfWidth w) = some w := by cases w <;> rfl

theorem sizeOfWidth_lt (w : Width) : sizeOfWidth w < 3 := by cases w <;> decide

/-- The word of an access, without its `wdata` field, and its `addr` field. -/
theorem txn_div {c : Cfg} {a : Access} (ha : a.addr < 2 ^ c.addrBits) :
    a.txn c / 2 ^ 32 % 2 ^ c.addrBits = a.addr ∧
    a.txn c / 2 ^ 32 / 2 ^ c.addrBits = a.write.toNat * 4 + sizeOfWidth a.width := by
  have h1 : a.txn c / 2 ^ 32 = (a.write.toNat * 4 + sizeOfWidth a.width) * 2 ^ c.addrBits + a.addr := by
    have := a.data.isLt
    unfold Access.txn
    omega
  rw [h1]
  constructor
  · rw [Nat.mul_comm, Nat.mul_add_mod, Nat.mod_eq_of_lt ha]
  · rw [Nat.mul_comm, Nat.mul_add_div (Nat.two_pow_pos _), Nat.div_eq_of_lt ha, Nat.add_zero]

/-- The fields of the word of an access (R120). -/
theorem txn_fields {c : Cfg} {a : Access} (ha : a.addr < 2 ^ c.addrBits) :
    txnSize c (a.txn c) = sizeOfWidth a.width ∧ txnAddr c (a.txn c) = a.addr ∧
    txnData (a.txn c) = a.data ∧ txnWrite c (a.txn c) = a.write := by
  obtain ⟨h1, h2⟩ := txn_div ha
  have h3 := sizeOfWidth_lt a.width
  refine ⟨?_, h1, ?_, ?_⟩
  · rw [txnSize, h2, Nat.mul_comm, Nat.mul_add_mod, Nat.mod_eq_of_lt (by omega)]
  · apply BitVec.eq_of_toNat_eq
    have := a.data.isLt
    simp only [txnData, Access.txn, BitVec.toNat_ofNat]
    omega
  · rw [txnWrite, h2, Nat.mul_comm, Nat.mul_add_div (by decide), Nat.div_eq_of_lt (by omega)]
    cases a.write <;> rfl

/-- The word of an access is as long as a transaction word (R120). -/
theorem txn_lt {c : Cfg} {a : Access} (ha : a.addr < 2 ^ c.addrBits) : a.txn c < 2 ^ c.txnBits := by
  obtain ⟨_, h2⟩ := txn_div ha
  have h3 := sizeOfWidth_lt a.width
  have h4 : a.write.toNat < 2 := by cases a.write <;> decide
  have h5 : a.txn c / (2 ^ 32 * 2 ^ c.addrBits) < 8 := by
    rw [← Nat.div_div_eq_div_mul, h2]
    calc a.write.toNat * 4 + sizeOfWidth a.width < 1 * 4 + 3 := by omega
      _ < 8 := by decide
  have h6 := (Nat.div_lt_iff_lt_mul (by positivity)).1 h5
  have h7 : 8 * (2 ^ 32 * 2 ^ c.addrBits) = 2 ^ c.txnBits := by rw [Cfg.txnBits, Nat.pow_add]; ring
  exact h7 ▸ h6

/-- What a transaction word has to hold to denote an access (R120 to R122). -/
theorem accessOfTxn_eq {c : Cfg} {t : Txn} {a : Access} (h0 : t < 2 ^ c.txnBits) (h1 : txnWidth c t = some a.width)
    (h2 : txnAddr c t = a.addr) (h3 : txnWrite c t = a.write)
    (h4 : (if a.write then canonicalData a.width (txnData t) else 0) = a.data) : accessOfTxn c t = some a := by
  rw [accessOfTxn, if_pos h0, h1]
  simp only [h2, h3, h4]

/-- The word of an access denotes that access, where its address is one of the address space, its width one of
`WIDTHS` and its data canonical (R80, R120, R122). -/
theorem accessOfTxn_txn {c : Cfg} {a : Access} (ha : a.addr < 2 ^ c.addrBits) (hw : a.width ∈ c.widths)
    (h : a.data = if a.write then canonicalData a.width a.data else 0) : accessOfTxn c (a.txn c) = some a := by
  obtain ⟨e0, e1, e2, e3⟩ := txn_fields ha
  have e4 : txnWidth c (a.txn c) = some a.width := by rw [txnWidth, e0, widthOfSize_sizeOfWidth]; exact if_pos hw
  exact accessOfTxn_eq (txn_lt ha) e4 e1 e3 (by rw [e2]; exact h.symm)

/-- What an access of a transaction word is (R120 to R122). -/
theorem accessOfTxn_some {c : Cfg} {t : Txn} {a : Access} (h : accessOfTxn c t = some a) :
    t < 2 ^ c.txnBits ∧ txnWidth c t = some a.width ∧ a.width ∈ c.widths ∧ a.addr = txnAddr c t ∧
    a.addr < 2 ^ c.addrBits ∧ a.write = txnWrite c t ∧
    a.data = if a.write then canonicalData a.width (txnData t) else 0 := by
  unfold accessOfTxn at h
  split at h
  · rename_i hlt
    split at h
    · cases h
    · rename_i w hw
      cases h
      have hm : w ∈ c.widths := by
        unfold txnWidth at hw
        split at hw
        · cases hw
        · split at hw
          · cases hw; assumption
          · cases hw
      exact ⟨hlt, hw, hm, rfl, Nat.mod_lt _ (Nat.two_pow_pos _), rfl, rfl⟩
  · cases h

/-- At CFG0 the fields are those of the 67-bit word of R120. -/
theorem txn_fields_cfg0 (t : BitVec 67) :
    txnSize cfg0 t.toNat = (t.extractLsb' 64 2).toNat ∧ txnAddr cfg0 t.toNat = (t.extractLsb' 32 32).toNat ∧
    txnData t.toNat = t.extractLsb' 0 32 ∧ txnWrite cfg0 t.toNat = t.getLsbD 66 := by
  have h := t.isLt
  refine ⟨?_, ?_, ?_, ?_⟩
  · simp only [txnSize, cfg0, BitVec.extractLsb'_toNat, Nat.shiftRight_eq_div_pow]; omega
  · simp only [txnAddr, cfg0, BitVec.extractLsb'_toNat, Nat.shiftRight_eq_div_pow]
  · apply BitVec.eq_of_toNat_eq
    simp [txnData, BitVec.extractLsb'_toNat]
  · rw [← BitVec.testBit_toNat, Nat.testBit_eq_decide_div_mod_eq, txnWrite, Nat.div_div_eq_div_mul,
      Nat.div_div_eq_div_mul]
    rfl

/-- A value that fits its width is canonical (R122). -/
theorem canonicalData_of_fits {w : Width} {v : Word} (h : w.fits v = true) : canonicalData w v = v := by
  have h' : v.toNat < 2 ^ (8 * w.bytes) := by simpa [Width.fits] using h
  cases w
  · apply BitVec.eq_of_toNat_eq
    simp only [Width.bytes] at h'
    simp [canonicalData]
    omega
  · apply BitVec.eq_of_toNat_eq
    simp only [Width.bytes] at h'
    simp [canonicalData]
    omega
  · rfl

/-- Canonical data fits its width (R122). -/
theorem fits_canonicalData (w : Width) (v : Word) : w.fits (canonicalData w v) = true := by
  cases w
  · simp [Width.fits, canonicalData, Width.bytes]; omega
  · simp [Width.fits, canonicalData, Width.bytes]; omega
  · simp [Width.fits, canonicalData, Width.bytes]
    exact decide_eq_true v.isLt

theorem canonicalData_idem (w : Width) (v : Word) : canonicalData w (canonicalData w v) = canonicalData w v :=
  canonicalData_of_fits (fits_canonicalData w v)

end Sys2Proof
end

