-- ==== Sys2Proof/Laws/PerInstr.lean ====
section
/-! SUPPORT. Statements about every bus operation as syntax, one lemma per constructor of `Instr`.

`CanonicalAccess`: the access a well-formed bus operation is carries canonical data (R122), so that its transaction
word denotes that access. -/

namespace Sys2Proof.Laws.CanonicalAccess

/-- A well-formed operation's access carries canonical data, and 0 where it is a read. -/
def Statement (i : Instr) : Prop :=
  ∀ c : Cfg, i.WF c →
    (i.access c).data = if (i.access c).write then canonicalData (i.access c).width (i.access c).data else 0

/-- A write access of a value that fits is canonical. -/
theorem of_write {w : Width} {addr : Nat} {v : Word} (h : w.fits v = true) :
    (writeAccess w addr v).data =
      if (writeAccess w addr v).write then canonicalData (writeAccess w addr v).width (writeAccess w addr v).data
      else 0 :=
  (canonicalData_of_fits h).symm

theorem tcntW (n : Nat) (w : Width) (v : Word) : Statement (.tcntW n w v) := fun c h => of_write (by simp_all [Instr.WF, Instr.wf])
theorem tcntR (n : Nat) (w : Width) : Statement (.tcntR n w) := fun _ _ => rfl
theorem tmodW (n : Nat) (w : Width) (v : Word) : Statement (.tmodW n w v) := fun c h => of_write (by simp_all [Instr.WF, Instr.wf])
theorem tmodR (n : Nat) (w : Width) : Statement (.tmodR n w) := fun _ _ => rfl
theorem tctlStart (n : Nat) (w : Width) (v : Word) : Statement (.tctlStart n w v) := fun c h => of_write (by simp_all [Instr.WF, Instr.wf])
theorem tctlStop (n : Nat) (w : Width) (v : Word) : Statement (.tctlStop n w v) := fun c h => of_write (by simp_all [Instr.WF, Instr.wf])
theorem tctlOther (n : Nat) (w : Width) (v : Word) : Statement (.tctlOther n w v) := fun c h => of_write (by simp_all [Instr.WF, Instr.wf])
theorem tctlR (n : Nat) (w : Width) : Statement (.tctlR n w) := fun _ _ => rfl
theorem stxdW (ch : Nat) (w : Width) (v : Word) : Statement (.stxdW ch w v) := fun c h => of_write (by simp_all [Instr.WF, Instr.wf])
theorem stxdR (ch : Nat) (w : Width) : Statement (.stxdR ch w) := fun _ _ => rfl
theorem srxdR (ch : Nat) (w : Width) : Statement (.srxdR ch w) := fun _ _ => rfl
theorem srxdW (ch : Nat) (w : Width) (v : Word) : Statement (.srxdW ch w v) := fun c h => of_write (by simp_all [Instr.WF, Instr.wf])
theorem sctlW (ch : Nat) (w : Width) (v : Word) : Statement (.sctlW ch w v) := fun c h => of_write (by simp_all [Instr.WF, Instr.wf])
theorem sctlR (ch : Nat) (w : Width) : Statement (.sctlR ch w) := fun _ _ => rfl
theorem fsahW (w : Width) (v : Word) : Statement (.fsahW w v) := fun c h => of_write (by simp_all [Instr.WF, Instr.wf])
theorem fsahR (w : Width) : Statement (.fsahR w) := fun _ _ => rfl
theorem fsalW (w : Width) (v : Word) : Statement (.fsalW w v) := fun c h => of_write (by simp_all [Instr.WF, Instr.wf])
theorem fsalR (w : Width) : Statement (.fsalR w) := fun _ _ => rfl
theorem feahW (w : Width) (v : Word) : Statement (.feahW w v) := fun c h => of_write (by simp_all [Instr.WF, Instr.wf])
theorem feahR (w : Width) : Statement (.feahR w) := fun _ _ => rfl
theorem fealW (w : Width) (v : Word) : Statement (.fealW w v) := fun c h => of_write (by simp_all [Instr.WF, Instr.wf])
theorem fealR (w : Width) : Statement (.fealR w) := fun _ _ => rfl
theorem fwdW (w : Width) (v : Word) : Statement (.fwdW w v) := fun c h => of_write (by simp_all [Instr.WF, Instr.wf])
theorem fwdR (w : Width) : Statement (.fwdR w) := fun _ _ => rfl
theorem fcmdClear (w : Width) (v : Word) : Statement (.fcmdClear w v) := fun c h => of_write (by simp_all [Instr.WF, Instr.wf])
theorem fcmdWrite (w : Width) (v : Word) : Statement (.fcmdWrite w v) := fun c h => of_write (by simp_all [Instr.WF, Instr.wf])
theorem fcmdErase (w : Width) (v : Word) : Statement (.fcmdErase w v) := fun c h => of_write (by simp_all [Instr.WF, Instr.wf])
theorem fcmdBlank (w : Width) (v : Word) : Statement (.fcmdBlank w v) := fun c h => of_write (by simp_all [Instr.WF, Instr.wf])
theorem fcmdOther (w : Width) (v : Word) : Statement (.fcmdOther w v) := fun c h => of_write (by simp_all [Instr.WF, Instr.wf])
theorem fcmdR (w : Width) : Statement (.fcmdR w) := fun _ _ => rfl
theorem fstatR (w : Width) : Statement (.fstatR w) := fun _ _ => rfl
theorem fstatW (w : Width) (v : Word) : Statement (.fstatW w v) := fun c h => of_write (by simp_all [Instr.WF, Instr.wf])
theorem flashdR (o : Nat) (w : Width) : Statement (.flashdR o w) := fun _ _ => rfl
theorem flashdW (o : Nat) (w : Width) (v : Word) : Statement (.flashdW o w v) := fun c h => of_write (by simp_all [Instr.WF, Instr.wf])
theorem ccmdW (w : Width) (v : Word) : Statement (.ccmdW w v) := fun c h => of_write (by simp_all [Instr.WF, Instr.wf])
theorem ccmdR (w : Width) : Statement (.ccmdR w) := fun _ _ => rfl
theorem cmodeW (w : Width) (v : Word) : Statement (.cmodeW w v) := fun c h => of_write (by simp_all [Instr.WF, Instr.wf])
theorem cmodeR (w : Width) : Statement (.cmodeR w) := fun _ _ => rfl
theorem ckeyW (w : Width) (v : Word) : Statement (.ckeyW w v) := fun c h => of_write (by simp_all [Instr.WF, Instr.wf])
theorem ckeyR (w : Width) : Statement (.ckeyR w) := fun _ _ => rfl
theorem civW (w : Width) (v : Word) : Statement (.civW w v) := fun c h => of_write (by simp_all [Instr.WF, Instr.wf])
theorem civR (w : Width) : Statement (.civR w) := fun _ _ => rfl
theorem cdinW (w : Width) (v : Word) : Statement (.cdinW w v) := fun c h => of_write (by simp_all [Instr.WF, Instr.wf])
theorem cdinR (w : Width) : Statement (.cdinR w) := fun _ _ => rfl
theorem cdoutR (w : Width) : Statement (.cdoutR w) := fun _ _ => rfl
theorem cdoutW (w : Width) (v : Word) : Statement (.cdoutW w v) := fun c h => of_write (by simp_all [Instr.WF, Instr.wf])
theorem gpioRejectR (addr : Nat) (w : Width) : Statement (.gpioRejectR addr w) := fun _ _ => rfl
theorem gpioRejectW (addr : Nat) (w : Width) (v : Word) : Statement (.gpioRejectW addr w v) := fun c h => of_write (by simp_all [Instr.WF, Instr.wf])
theorem pctlW (p : Nat) (w : Width) (v : Word) : Statement (.pctlW p w v) := fun c h => of_write (by simp_all [Instr.WF, Instr.wf])
theorem pctlR (p : Nat) (w : Width) : Statement (.pctlR p w) := fun _ _ => rfl
theorem pinR (p : Nat) (w : Width) : Statement (.pinR p w) := fun _ _ => rfl
theorem pinW (p : Nat) (w : Width) (v : Word) : Statement (.pinW p w v) := fun c h => of_write (by simp_all [Instr.WF, Instr.wf])
theorem pfsW (p : Nat) (i : Fin 16) (w : Width) (v : Word) : Statement (.pfsW p i w v) := fun c h => of_write (by simp_all [Instr.WF, Instr.wf])
theorem pfsR (p : Nat) (i : Fin 16) (w : Width) : Statement (.pfsR p i w) := fun _ _ => rfl
theorem noregRTimer (addr : Nat) (w : Width) : Statement (.noregRTimer addr w) := fun _ _ => rfl
theorem noregWTimer (addr : Nat) (w : Width) (v : Word) : Statement (.noregWTimer addr w v) := fun c h => of_write (by simp_all [Instr.WF, Instr.wf])
theorem noregRSerial (addr : Nat) (w : Width) : Statement (.noregRSerial addr w) := fun _ _ => rfl
theorem noregWSerial (addr : Nat) (w : Width) (v : Word) : Statement (.noregWSerial addr w v) := fun c h => of_write (by simp_all [Instr.WF, Instr.wf])
theorem noregRFlashc (addr : Nat) (w : Width) : Statement (.noregRFlashc addr w) := fun _ _ => rfl
theorem noregWFlashc (addr : Nat) (w : Width) (v : Word) : Statement (.noregWFlashc addr w v) := fun c h => of_write (by simp_all [Instr.WF, Instr.wf])
theorem noregRCipher (addr : Nat) (w : Width) : Statement (.noregRCipher addr w) := fun _ _ => rfl
theorem noregWCipher (addr : Nat) (w : Width) (v : Word) : Statement (.noregWCipher addr w v) := fun c h => of_write (by simp_all [Instr.WF, Instr.wf])
theorem noregRGpio (addr : Nat) (w : Width) : Statement (.noregRGpio addr w) := fun _ _ => rfl
theorem noregWGpio (addr : Nat) (w : Width) (v : Word) : Statement (.noregWGpio addr w v) := fun c h => of_write (by simp_all [Instr.WF, Instr.wf])
theorem unmappedR (addr : Nat) (w : Width) : Statement (.unmappedR addr w) := fun _ _ => rfl
theorem unmappedW (addr : Nat) (w : Width) (v : Word) : Statement (.unmappedW addr w v) := fun c h => of_write (by simp_all [Instr.WF, Instr.wf])

end Sys2Proof.Laws.CanonicalAccess
end

