-- ==== Sys2Proof/Tests/Slice0.lean ====
section
/-! SUPPORT. Tests: the well-formedness checks, one decoded word for every constructor, one or two single steps for
every operation and agent step, and for every statement of the obligations a state and operands that meet its hypotheses.

Expected results are those of the spec's test vectors V1 to V55 or worked by hand from the rule named. -/

namespace Sys2Proof.Tests

open Sys2Proof.Machine

/-! ## Small states -/

/-- CFG0 with a four-byte receive buffer and the vectors' toy block cipher. -/
def smallCfg : Cfg := { cfg0 with rxCap := 4, blockCipher := .toyXor }

/-- The small configuration after reset. -/
def small : State := .init smallCfg

/-- The small state with timer channel 1 set. -/
def smallTimer (t : TimerCh) : State := small.setTimer 1 t

/-- The small state with serial channel 0 set. -/
def smallSerial (x : SerialCh) : State := small.setSerial 0 x

/-- The small state with the flash controller set. -/
def smallFlash (f : FlashCtl) : State := small.setFlash f

/-- The small state with the cipher unit set. -/
def smallCipher (u : CipherUnit) : State := small.setCipher u

/-- The state with these actions scheduled. -/
def scheduled (s : State) (as : List Action) : State := { s with schedule := as }

/-- The next state of an outcome; the small state where there is none. -/
def after (r : Result) : State :=
  match r with
  | .next t => t
  | .fault _ => small
  | .refused _ => small

/-- What the bus master gets back from an operation. -/
def answer (i : Instr) (s : State) : Resp := (after (exec i s)).resp

/-- The refusal of an outcome. -/
def refusal (r : Result) : Option Refusal :=
  match r with
  | .refused why => some why
  | .next _ => none
  | .fault _ => none

/-- A serial channel with one unread byte and its receive line up. -/
def oneByte : State :=
  { smallSerial { SerialCh.reset smallCfg with rxBuf := [0x7A, 0, 0, 0], rxEnd := 1, rxCount := 1 } with
    irqHigh := [10], hist := [.assert 10] }

/-- A timer channel that sleeps for 2000 microseconds in repeat mode (V16). -/
def sleeping : State := smallTimer ⟨0x03E8, 0x0011, true, false, .sleep 2000⟩

/-- A timer channel at its check (V16). -/
def checking : State := smallTimer ⟨0x03E8, 0x0011, true, false, .check⟩

/-- An array with two bytes at its end (V41). -/
def endBytes : State := smallFlash { FlashCtl.reset smallCfg with mem := [(0xFFE, 0x11), (0xFFF, 0x22)] }

/-! ## Well-formed configurations and operations -/

/-- The configuration is well-formed. -/
def accepted (c : Cfg) : Bool := decide c.WF

theorem test_cfg0_wf : cfg0.WF := by decide

theorem test_small_cfg_wf : smallCfg.WF := by decide

/-- R12 (a): overlapping windows. -/
theorem test_wf_refuses_overlapping_windows : accepted { cfg0 with cipherBase := 0x40002008 } = false := by decide

/-- R12 (a): a window that leaves the address space. -/
theorem test_wf_refuses_window_past_the_end : accepted { cfg0 with flashdBase := 0xFFFFF001 } = false := by decide

/-- R12 (b): more ports than slots. -/
theorem test_wf_refuses_too_many_ports : accepted { cfg0 with numPorts := 17 } = false := by decide

/-- R12 (c): two registers at one offset; a register past the end of its window. -/
theorem test_wf_refuses_bad_offsets :
    accepted { cfg0 with tmodOff := 0x0 } = false ∧ accepted { cfg0 with sctlOff := 0xF } = false ∧ accepted { cfg0 with fwdOff := 0x2 } = false ∧
    accepted { cfg0 with cdoutOff := 0x1D } = false ∧ accepted { cfg0 with pfsOff := 0x11 } = false := by decide

/-- R12 (d): no buffer; a divisor table of the wrong length; a byte of `FLASH_INIT` outside the array. -/
theorem test_wf_refuses_bad_sizes :
    accepted { cfg0 with rxCap := 0 } = false ∧ accepted { cfg0 with divTable := [1, 2, 4] } = false ∧
    accepted { cfg0 with flashInit := [(0x1000, 1)] } = false := by decide

/-- R12 (e): equal patterns; equal command codes. -/
theorem test_wf_refuses_equal_codes :
    accepted { cfg0 with timerStopPattern := 0x01 } = false ∧ accepted { cfg0 with fcmdBlank := 0x02 } = false := by decide

/-- R12 (f): one line for two sources. -/
theorem test_wf_refuses_shared_lines : accepted { cfg0 with timerLine := [some 0, some 1, some 8, none] } = false := by decide

/-- Log entry 4: table lengths, bit numbers, base frequency. -/
theorem test_wf_refuses_bad_types :
    accepted { cfg0 with timerLine := [some 0] } = false ∧ accepted { cfg0 with sctlTxieBit := 16 } = false ∧ accepted { cfg0 with fBaseHz := 0 } = false ∧
    accepted { cfg0 with ccmdCbcBit := 32 } = false := by decide

/-- R12 asks no two `CCMD` bits, no offsets of a kind of window that is not there, and any width of address and set of
access widths; where the cipher unit is left out, its window is still one of the table (R163, log entry 6). -/
theorem test_wf_accepts :
    accepted { cfg0 with ccmdCbcBit := 0 } = true ∧ accepted { cfg0 with cipherUnit := false, cdoutOff := 0 } = true ∧
    accepted { cfg0 with numTimer := 0, timerLine := [], tmodOff := 0 } = true ∧
    accepted { cfg0 with addrBits := 36, widths := [.b4] } = true ∧
    accepted { cfg0 with addrBits := 30 } = false ∧
    accepted { cfg0 with cipherUnit := false, flashdBase := 0x40002100 } = false := by decide

/-- R82: an access width that is none of `WIDTHS`. -/
theorem test_wf_refuses_widths : ¬ (Instr.tcntR 0 .b2).WF { cfg0 with widths := [.b1, .b4] } := by decide

/-- Indices out of range. -/
theorem test_wf_refuses_indices :
    ¬ (Instr.tcntR 4 .b1).WF cfg0 ∧ ¬ (Instr.stxdR 4 .b1).WF cfg0 ∧ ¬ (Instr.pctlR 8 .b4).WF cfg0 ∧
    ¬ (Instr.flashdR 0x1000 .b1).WF cfg0 := by decide

/-- A value that does not fit its width (R122). -/
theorem test_wf_refuses_wide_values :
    ¬ (Instr.tcntW 0 .b1 0x100).WF cfg0 ∧ ¬ (Instr.fwdW .b2 0x10000).WF cfg0 ∧
    ¬ (Instr.unmappedW 0 .b1 0x100).WF cfg0 := by decide

/-- A command that does not carry its code (R134). -/
theorem test_wf_refuses_wrong_codes :
    ¬ (Instr.tctlStart 0 .b1 0x02).WF cfg0 ∧ ¬ (Instr.tctlStop 0 .b1 0x01).WF cfg0 ∧
    ¬ (Instr.tctlOther 0 .b1 0x01).WF cfg0 ∧ ¬ (Instr.fcmdClear .b1 0x01).WF cfg0 ∧
    ¬ (Instr.fcmdWrite .b1 0x02).WF cfg0 ∧ ¬ (Instr.fcmdErase .b1 0x03).WF cfg0 ∧
    ¬ (Instr.fcmdBlank .b1 0x00).WF cfg0 ∧ ¬ (Instr.fcmdOther .b1 0x03).WF cfg0 := by decide

/-- An operation of an absent cipher unit (R7). -/
theorem test_wf_refuses_absent_cipher : ¬ (Instr.ckeyR .b4).WF { cfg0 with cipherUnit := false } := by decide

/-- An operation that reaches no register, at the address of one (R123). -/
theorem test_wf_refuses_registers_as_holes :
    ¬ (Instr.noregRTimer 0x40000002 .b1).WF cfg0 ∧ ¬ (Instr.noregRSerial 0x40001004 .b1).WF cfg0 ∧
    ¬ (Instr.noregRFlashc 0x4000200C .b1).WF cfg0 ∧ ¬ (Instr.noregRCipher 0x40003014 .b1).WF cfg0 ∧
    ¬ (Instr.noregRGpio 0x4000401F .b1).WF cfg0 ∧ ¬ (Instr.gpioRejectR 0x400040FF .b1).WF cfg0 ∧
    ¬ (Instr.unmappedR 0x40100FFF .b1).WF cfg0 := by decide

/-! ## Decoding: one word for every constructor, written out from R120 and R124 to R129 -/

theorem test_decode_timer :
    decodeTableWord 72 0x540000000000003E8 = some (.tcntW 0 .b2 0x03E8) ∧
    decodeTableWord 72 0x14000003000000000 = some (.tcntR 3 .b2) ∧
    decodeTableWord 72 0x54000003200000050 = some (.tmodW 3 .b2 0x0050) ∧
    decodeTableWord 72 0x14000000200000000 = some (.tmodR 0 .b2) ∧
    decodeTableWord 72 0x44000001400000001 = some (.tctlStart 1 .b1 0x01) ∧
    decodeTableWord 72 0x44000002400000002 = some (.tctlStop 2 .b1 0x02) ∧
    decodeTableWord 72 0x44000001400000003 = some (.tctlOther 1 .b1 0x03) ∧
    decodeTableWord 72 0x04000001400000000 = some (.tctlR 1 .b1) := by decide

theorem test_decode_serial :
    decodeTableWord 72 0x4400010000000004F = some (.stxdW 0 .b1 0x4F) ∧
    decodeTableWord 72 0x04000101000000000 = some (.stxdR 1 .b1) ∧
    decodeTableWord 72 0x04000102200000000 = some (.srxdR 2 .b1) ∧
    decodeTableWord 72 0x44000100200000055 = some (.srxdW 0 .b1 0x55) ∧
    decodeTableWord 72 0x54000103400000001 = some (.sctlW 3 .b2 0x0001) ∧
    decodeTableWord 72 0x14000100400000000 = some (.sctlR 0 .b2) := by decide

theorem test_decode_flash_latches :
    decodeTableWord 72 0x54000200400004010 = some (.fsahW .b2 0x4010) ∧
    decodeTableWord 72 0x14000200400000000 = some (.fsahR .b2) ∧
    decodeTableWord 72 0x54000200600000010 = some (.fsalW .b2 0x0010) ∧
    decodeTableWord 72 0x14000200600000000 = some (.fsalR .b2) ∧
    decodeTableWord 72 0x54000200800004010 = some (.feahW .b2 0x4010) ∧
    decodeTableWord 72 0x14000200800000000 = some (.feahR .b2) ∧
    decodeTableWord 72 0x54000200A0000001F = some (.fealW .b2 0x001F) ∧
    decodeTableWord 72 0x14000200A00000000 = some (.fealR .b2) ∧
    decodeTableWord 72 0x44000200C000000A5 = some (.fwdW .b1 0xA5) ∧
    decodeTableWord 72 0x04000200C00000000 = some (.fwdR .b1) := by decide

theorem test_decode_flash_commands :
    decodeTableWord 72 0x44000200000000000 = some (.fcmdClear .b1 0x00) ∧
    decodeTableWord 72 0x44000200000000001 = some (.fcmdWrite .b1 0x01) ∧
    decodeTableWord 72 0x44000200000000002 = some (.fcmdErase .b1 0x02) ∧
    decodeTableWord 72 0x44000200000000003 = some (.fcmdBlank .b1 0x03) ∧
    decodeTableWord 72 0x44000200000000080 = some (.fcmdOther .b1 0x80) ∧
    decodeTableWord 72 0x04000200000000000 = some (.fcmdR .b1) ∧
    decodeTableWord 72 0x04000200200000000 = some (.fstatR .b1) ∧
    decodeTableWord 72 0x440002002000000FF = some (.fstatW .b1 0xFF) ∧
    decodeTableWord 72 0x240100FFE00000000 = some (.flashdR 0xFFE .b4) ∧
    decodeTableWord 72 0x440100FFE000000FF = some (.flashdW 0xFFE .b1 0xFF) := by decide

theorem test_decode_cipher :
    decodeTableWord 72 0x64000300000000002 = some (.ccmdW .b4 0x2) ∧
    decodeTableWord 72 0x24000300000000000 = some (.ccmdR .b4) ∧
    decodeTableWord 72 0x64000300400000010 = some (.cmodeW .b4 0x10) ∧
    decodeTableWord 72 0x24000300400000000 = some (.cmodeR .b4) ∧
    decodeTableWord 72 0x64000300803020100 = some (.ckeyW .b4 0x03020100) ∧
    decodeTableWord 72 0x24000300800000000 = some (.ckeyR .b4) ∧
    decodeTableWord 72 0x64000300C11111111 = some (.civW .b4 0x11111111) ∧
    decodeTableWord 72 0x24000300C00000000 = some (.civR .b4) ∧
    decodeTableWord 72 0x640003010FFEEDDCC = some (.cdinW .b4 0xFFEEDDCC) ∧
    decodeTableWord 72 0x24000301000000000 = some (.cdinR .b4) ∧
    decodeTableWord 72 0x04000301400000000 = some (.cdoutR .b1) ∧
    decodeTableWord 72 0x640003014FFFFFFFF = some (.cdoutW .b4 0xFFFFFFFF) := by decide

theorem test_decode_gpio :
    decodeTableWord 72 0x2400041E000000000 = some (.gpioRejectR 0x400041E0 .b4) ∧
    decodeTableWord 72 0x4400041FF00000012 = some (.gpioRejectW 0x400041FF .b1 0x12) ∧
    decodeTableWord 72 0x64000404000F000FF = some (.pctlW 2 .b4 0x00F000FF) ∧
    decodeTableWord 72 0x24000406000000000 = some (.pctlR 3 .b4) ∧
    decodeTableWord 72 0x14000404400000000 = some (.pinR 2 .b2) ∧
    decodeTableWord 72 0x640004044FFFFFFFF = some (.pinW 2 .b4 0xFFFFFFFF) ∧
    decodeTableWord 72 0x64000407411223344 = some (.pfsW 3 4 .b4 0x11223344) ∧
    decodeTableWord 72 0x0400040FF00000000 = some (.pfsR 7 15 .b1) := by decide

theorem test_decode_no_register :
    decodeTableWord 72 0x04000000100000000 = some (.noregRTimer 0x40000001 .b1) ∧
    decodeTableWord 72 0x44000003F000000FF = some (.noregWTimer 0x4000003F .b1 0xFF) ∧
    decodeTableWord 72 0x14000100600000000 = some (.noregRSerial 0x40001006 .b2) ∧
    decodeTableWord 72 0x44000100300000001 = some (.noregWSerial 0x40001003 .b1 0x01) ∧
    decodeTableWord 72 0x04000200F00000000 = some (.noregRFlashc 0x4000200F .b1) ∧
    decodeTableWord 72 0x5400020010000FFFF = some (.noregWFlashc 0x40002001 .b2 0xFFFF) ∧
    decodeTableWord 72 0x24000301800000000 = some (.noregRCipher 0x40003018 .b4) ∧
    decodeTableWord 72 0x64000301C00000001 = some (.noregWCipher 0x4000301C .b4 0x1) ∧
    decodeTableWord 72 0x04000400100000000 = some (.noregRGpio 0x40004001 .b1) ∧
    decodeTableWord 72 0x440004008000000AA = some (.noregWGpio 0x40004008 .b1 0xAA) ∧
    decodeTableWord 72 0x25000000000000000 = some (.unmappedR 0x50000000 .b4) ∧
    decodeTableWord 72 0x600000000DEADBEEF = some (.unmappedW 0x00000000 .b4 0xDEADBEEF) := by decide

/-- V13: `size` = 3; and a number that is no 67-bit word. -/
theorem test_decode_refuses :
    decodeTableWord 72 0x74000000000000000 = none ∧ decodeTableWord 72 0x80000000000000000 = none := by decide

/-- V14: the bits above a write's width are no part of the access. -/
theorem test_decode_noncanonical :
    decodeTableWord 72 0x44000000412345601 = decodeTableWord 72 0x44000000400000001 := by decide

/-- R82: a width that is none of `WIDTHS` is refused as `size` = 3 is. -/
theorem test_decode_refuses_width :
    decode { cfg0 with widths := [.b1, .b4] } 0x14000000200000000 = none ∧
    decode { cfg0 with widths := [.b1, .b4] } 0x24000000200000000 = some (.tmodR 0 .b4) := by decide

/-- Log entry 19: 36 address bits, `size` and `rw` above them. -/
theorem test_decode_wide_address :
    decode { cfg0 with addrBits := 36, flashdBase := 0x840100000 } 0x2840100FFD00000000 = some (.flashdR 0xFFD .b4) := by
  decide

/-- R7: without the cipher unit its addresses are in no window. -/
theorem test_decode_without_cipher :
    decode { cfg0 with cipherUnit := false } 0x24000300800000000 = some (.unmappedR 0x40003008 .b4) := by decide

/-! ## Timer (R181 to R189, R196, R197) -/

/-- V15: 0 after truncation is stored as 0xFFFF. -/
theorem test_tcntW_zero : ((after (exec (.tcntW 1 .b4 0x00010000) small)).timer 1).tcnt = 0xFFFF := by decide

/-- R87: a byte write clears the high half. -/
theorem test_tcntW_byte : ((after (exec (.tcntW 1 .b1 0x34) sleeping)).timer 1).tcnt = 0x0034 := by decide

theorem test_tcntR_byte : answer (.tcntR 1 .b1) sleeping = .data .b1 0xE8 := by decide

theorem test_tcntR_word : answer (.tcntR 1 .b4) sleeping = .data .b4 0x03E8 := by decide

/-- V19: a reserved selector is stored. -/
theorem test_tmodW : ((after (exec (.tmodW 1 .b2 0x0061) sleeping)).timer 1).tmod = 0x0061 := by decide

theorem test_tmodR : answer (.tmodR 1 .b2) sleeping = .data .b2 0x0011 := by decide

/-- V16. -/
theorem test_tctlStart_arms :
    (after (exec (.tctlStart 1 .b1 0x01) (smallTimer ⟨0x03E8, 0x0011, false, false, .off⟩))).timer 1 =
      ⟨0x03E8, 0x0011, true, false, .check⟩ := by decide

/-- V19: a reserved selector is not armed. -/
theorem test_tctlStart_reserved :
    (after (exec (.tctlStart 1 .b1 0x01) (smallTimer ⟨0x0064, 0x0061, false, false, .off⟩))).timer 1 =
      ⟨0x0064, 0x0061, false, false, .off⟩ := by decide

/-- V20. -/
theorem test_tctlStop_running :
    (after (exec (.tctlStop 1 .b1 0x02) sleeping)).timer 1 = ⟨0x03E8, 0x0011, true, true, .sleep 2000⟩ := by decide

/-- V24: a stop on an idle channel. -/
theorem test_tctlStop_idle : (after (exec (.tctlStop 1 .b1 0x02) small)).timer 1 = .reset := by decide

/-- V24. -/
theorem test_tctlOther :
    (after (exec (.tctlOther 1 .b1 0x03) sleeping)).timer 1 = ⟨0x03E8, 0x0011, true, false, .sleep 2000⟩ := by decide

theorem test_tctlR : answer (.tctlR 1 .b1) sleeping = .data .b1 0 := by decide

/-- V16: 1000 times 2 microseconds. -/
theorem test_tCheck : ((after (agentTCheck 1 checking)).timer 1).tphase = .sleep 2000 := by decide

/-- V23: a reserved selector met by the check ends the agent. -/
theorem test_tCheck_reserved :
    (after (agentTCheck 1 (smallTimer ⟨0x02BC, 0x0071, true, false, .check⟩))).timer 1 =
      ⟨0x02BC, 0x0071, false, false, .off⟩ := by decide

/-- V16: one labelled pulse, and the agent goes on. -/
theorem test_tExpire_repeat :
    (after (agentTExpire 1 sleeping)).hist = [.pulse 1 (some 2000)] ∧
    ((after (agentTExpire 1 sleeping)).timer 1).tphase = .check := by decide

/-- V18: the longest interval; one-shot mode ends the agent. -/
theorem test_tExpire_one_shot :
    timerIntervalUs cfg0 0xFFFF 0x0050 = 2097120 ∧ timerIntervalUs cfg0 0x0000 0x0050 = 2097120 ∧
    ((after (agentTExpire 1 (smallTimer ⟨0xFFFF, 0x0050, true, true, .sleep 2097120⟩))).timer 1) =
      ⟨0xFFFF, 0x0050, false, false, .off⟩ := by decide

/-! ## Serial (R221 to R226, R235 to R237) -/

/-- V25. -/
theorem test_stxdW_asserts :
    (after (exec (.stxdW 0 .b1 0x4F) (smallSerial { SerialCh.reset smallCfg with sctl := 0x0001 }))).hist =
      [.assert 8] ∧
    ((after (exec (.stxdW 0 .b1 0x4F) (smallSerial { SerialCh.reset smallCfg with sctl := 0x0001 }))).serial 0).txOut =
      [0x4F] := by decide

/-- R47: a transport that did not open transmits nothing, and the latch holds the byte. -/
theorem test_stxdW_closed :
    ((after (exec (.stxdW 0 .b1 0x4F) (.init { smallCfg with transportOk := [false, true, true, true] }))).serial 0).txOut =
      [] ∧
    ((after (exec (.stxdW 0 .b1 0x4F) (.init { smallCfg with transportOk := [false, true, true, true] }))).serial 0).stxd =
      0x4F := by decide

theorem test_stxdR :
    answer (.stxdR 0 .b1) (smallSerial { SerialCh.reset smallCfg with stxd := 0x4B }) = .data .b1 0x4B := by decide

/-- V28: the read that empties the buffer clears the line. -/
theorem test_srxdR_last :
    answer (.srxdR 0 .b1) oneByte = .data .b1 0x7A ∧
    (after (exec (.srxdR 0 .b1) oneByte)).hist = [.assert 10, .clear 10] ∧
    (after (exec (.srxdR 0 .b1) oneByte)).irqHigh = [] := by decide

/-- V32: the read of an empty buffer clears nothing. -/
theorem test_srxdR_empty :
    answer (.srxdR 0 .b1) small = .data .b1 0 ∧ (after (exec (.srxdR 0 .b1) small)).hist = [] := by decide

theorem test_srxdW : (after (exec (.srxdW 0 .b1 0x55) oneByte)).serial 0 = oneByte.serial 0 := by decide

/-- V25: transmit-complete pulses where `TXIE` goes from 1 to 0. -/
theorem test_sctlW_falls :
    (after (exec (.sctlW 0 .b2 0x0000) (smallSerial { SerialCh.reset smallCfg with sctl := 0x0001 }))).hist =
      [.pulse 9 none] := by decide

/-- V25: and not where it was 0. -/
theorem test_sctlW_stays :
    (after (exec (.sctlW 0 .b2 0xFFFE) small)).hist = [] ∧
    ((after (exec (.sctlW 0 .b2 0xFFFE) small)).serial 0).sctl = 0xFFFE := by decide

theorem test_sctlR :
    answer (.sctlR 0 .b2) (smallSerial { SerialCh.reset smallCfg with sctl := 0x0001 }) = .data .b2 1 := by decide

/-- R235. -/
theorem test_rxDeliver : ((after (envRxDeliver 0 [0x68, 0x69] small)).serial 0).rxIn = [0x68, 0x69] := by decide

theorem test_rxDeliver_nothing : refusal (envRxDeliver 0 [] small) = some .notEnabled := by decide

/-- V29: overrun loses the oldest byte. -/
theorem test_rxPush_overrun :
    (after (agentRxPush 0 5 (smallSerial { SerialCh.reset smallCfg with rxIn := [1, 2, 3, 4, 5] }))).serial 0 =
      { SerialCh.reset smallCfg with
        rxBuf := [5, 2, 3, 4], rxStart := 1, rxEnd := 1, rxCount := 4, rxPending := true } := by decide

/-- V33: with `RX_ASSERT_ATOMIC` the push asserts. -/
theorem test_rxPush_atomic :
    (after (agentRxPush 0 1 ((State.init { smallCfg with rxAssertAtomic := true }).setSerial 0
      { SerialCh.reset smallCfg with rxIn := [0x7A] }))).hist = [.assert 10] := by decide

/-- V32: the assertion comes although the buffer is empty. -/
theorem test_rxAssert :
    (after (agentRxAssert 0 (smallSerial { SerialCh.reset smallCfg with rxPending := true }))).irqHigh = [10] := by
  decide

/-! ## Flash (R263 to R283) -/

theorem test_fsahW :
    (after (exec (.fsahW .b2 0x4010) (smallFlash { FlashCtl.reset smallCfg with fsa := 0x11112222 }))).flash.fsa =
      0x40102222 := by decide

theorem test_fsahR :
    answer (.fsahR .b2) (smallFlash { FlashCtl.reset smallCfg with fsa := 0x40100020 }) = .data .b2 0x4010 := by decide

theorem test_fsalW :
    (after (exec (.fsalW .b2 0x0020) (smallFlash { FlashCtl.reset smallCfg with fsa := 0x11112222 }))).flash.fsa =
      0x11110020 := by decide

theorem test_fsalR :
    answer (.fsalR .b2) (smallFlash { FlashCtl.reset smallCfg with fsa := 0x40100020 }) = .data .b2 0x0020 := by decide

theorem test_feahW :
    (after (exec (.feahW .b1 0x12) (smallFlash { FlashCtl.reset smallCfg with fea := 0x11112222 }))).flash.fea =
      0x00122222 := by decide

theorem test_feahR :
    answer (.feahR .b2) (smallFlash { FlashCtl.reset smallCfg with fea := 0x40100FFF }) = .data .b2 0x4010 := by decide

theorem test_fealW :
    (after (exec (.fealW .b4 0xABCD0FFF) (smallFlash { FlashCtl.reset smallCfg with fea := 0x11112222 }))).flash.fea =
      0x11110FFF := by decide

theorem test_fealR :
    answer (.fealR .b1) (smallFlash { FlashCtl.reset smallCfg with fea := 0x40100FF1 }) = .data .b1 0xF1 := by decide

theorem test_fwdW : (after (exec (.fwdW .b2 0x12A5) small)).flash.fwd = 0xA5 := by decide

theorem test_fwdR :
    answer (.fwdR .b1) (smallFlash { FlashCtl.reset smallCfg with fwd := 0x22 }) = .data .b1 0x22 := by decide

/-- V36. -/
theorem test_fcmdClear :
    (after (exec (.fcmdClear .b1 0) (smallFlash { FlashCtl.reset smallCfg with fcmd := 3, fstat := 0x01 }))).flash =
      FlashCtl.reset smallCfg := by decide

/-- V38: the last address of the array. -/
theorem test_fcmdWrite_last :
    (after (exec (.fcmdWrite .b1 1)
      (smallFlash { FlashCtl.reset smallCfg with fsa := 0x40100FFF, fwd := 0x77 }))).flash =
      ⟨0x01, 0x01, 0x40100FFF, 0, 0x77, [(0xFFF, 0x77)]⟩ := by decide

/-- V38: one past the array changes the status only. -/
theorem test_fcmdWrite_outside :
    (after (exec (.fcmdWrite .b1 1)
      (smallFlash { FlashCtl.reset smallCfg with fsa := 0x40101000, fwd := 0x77 }))).flash =
      ⟨0x01, 0x01, 0x40101000, 0, 0x77, []⟩ := by decide

/-- V39: a one-byte range. -/
theorem test_fcmdErase_one :
    (after (exec (.fcmdErase .b1 2) (smallFlash { FlashCtl.reset smallCfg with
      fsa := 0x40100101, fea := 0x40100101, mem := [(0x100, 0x5A), (0x101, 0x5A), (0x102, 0x5A)] }))).flash.mem =
      [(0x100, 0x5A), (0x102, 0x5A)] := by decide

/-- V39: the end below the start. -/
theorem test_fcmdErase_backwards :
    (after (exec (.fcmdErase .b1 2) (smallFlash { FlashCtl.reset smallCfg with
      fsa := 0x40100102, fea := 0x40100100, mem := [(0x101, 0x5A)] }))).flash =
      ⟨0x02, 0x01, 0x40100102, 0x40100100, 0, [(0x101, 0x5A)]⟩ := by decide

/-- V36. -/
theorem test_fcmdBlank :
    (after (exec (.fcmdBlank .b1 3) endBytes)).flash = ⟨0x03, 0x01, 0, 0, 0, [(0xFFE, 0x11), (0xFFF, 0x22)]⟩ := by
  decide

/-- V40. -/
theorem test_fcmdOther : (after (exec (.fcmdOther .b1 0x80) endBytes)).flash = endBytes.flash := by decide

theorem test_fcmdR :
    answer (.fcmdR .b1) (smallFlash { FlashCtl.reset smallCfg with fcmd := 0x01 }) = .data .b1 0x01 := by decide

/-- V36: the read returns the value before the toggle. -/
theorem test_fstatR :
    answer (.fstatR .b1) (smallFlash { FlashCtl.reset smallCfg with fstat := 0x01 }) = .data .b1 0x01 ∧
    (after (exec (.fstatR .b1) (smallFlash { FlashCtl.reset smallCfg with fstat := 0x01 }))).flash.fstat = 0x00 := by
  decide

theorem test_fstatW : (after (exec (.fstatW .b1 0xFF) small)).flash.fstat = 0x00 := by decide

/-- V41: bytes past the end read as 0, little-endian. -/
theorem test_flashdR_end :
    answer (.flashdR 0xFFE .b4) endBytes = .data .b4 0x00002211 ∧
    answer (.flashdR 0xFFD .b2) endBytes = .data .b2 0x1100 := by decide

/-- R90: the other byte order. -/
theorem test_flashdR_big :
    answer (.flashdR 0xFFE .b2) { endBytes with cfg := { smallCfg with byteOrder := .big } } = .data .b2 0x1122 := by
  decide

/-- V41. -/
theorem test_flashdW : (after (exec (.flashdW 0xFFE .b1 0xFF) endBytes)).flash = endBytes.flash := by decide

/-! ## Cipher (R310 to R323) -/

/-- V48: `CCMD` accumulates. -/
theorem test_ccmdW :
    (after (exec (.ccmdW .b1 0x01) (smallCipher { CipherUnit.reset with ccmd := 0x80000002 }))).cipher.ccmd =
      0x80000003 := by decide

/-- V47. -/
theorem test_ccmdR :
    answer (.ccmdR .b4) (smallCipher { CipherUnit.reset with ccmd := 0x3, outIdx := 3 }) = .data .b4 0x00000001 ∧
    (after (exec (.ccmdR .b4) (smallCipher { CipherUnit.reset with ccmd := 0x3, outIdx := 3 }))).cipher =
      { CipherUnit.reset with ccmd := 0x3 } := by decide

/-- V48, V47: the input index stays. -/
theorem test_cmodeW :
    (after (exec (.cmodeW .b4 0x10) (smallCipher { CipherUnit.reset with
      ccmd := 0x3, civ := ⟨1, 2, 3, 4⟩, ivIdx := 2, keyIdx := 1, dinIdx := 3, outIdx := 2 }))).cipher =
      { CipherUnit.reset with cmode := 0x10, keyIdx := 1, dinIdx := 3, outIdx := 2 } := by decide

theorem test_cmodeR :
    answer (.cmodeR .b4) (smallCipher { CipherUnit.reset with cmode := 0x10 }) = .data .b4 0x10 := by decide

/-- V42: swapped on the way in; the index wraps. -/
theorem test_ckeyW :
    (after (exec (.ckeyW .b4 0x03020100) (smallCipher { CipherUnit.reset with keyIdx := 3 }))).cipher =
      { CipherUnit.reset with ckey := ⟨0, 0, 0, 0x00010203⟩ } := by decide

theorem test_ckeyR : answer (.ckeyR .b4) (smallCipher { CipherUnit.reset with ckey := ⟨1, 2, 3, 4⟩ }) = .data .b4 0 := by
  decide

/-- R87: a byte write is zero-extended before the swap. -/
theorem test_civW :
    (after (exec (.civW .b1 0x12) (smallCipher { CipherUnit.reset with ivIdx := 1 }))).cipher =
      { CipherUnit.reset with civ := ⟨0, 0x12000000, 0, 0⟩, ivIdx := 2 } := by decide

theorem test_civR : answer (.civR .b4) (smallCipher { CipherUnit.reset with civ := ⟨1, 2, 3, 4⟩ }) = .data .b4 0 := by
  decide

/-- V47: the third input word runs nothing. -/
theorem test_cdinW_third :
    (after (exec (.cdinW .b4 0xBBAA9988) (smallCipher { CipherUnit.reset with dinIdx := 2 }))).cipher =
      { CipherUnit.reset with cdin := ⟨0, 0, 0x8899AABB, 0⟩, dinIdx := 3 } := by decide

/-- P4: the fourth input word of a CBC encryption with the toy cipher. -/
theorem test_cdinW_fourth :
    (after (exec (.cdinW .b4 0xFFEEDDCC) (smallCipher { CipherUnit.reset with
      ccmd := 0x2, ckey := ⟨0x00010203, 0x04050607, 0x08090A0B, 0x0C0D0E0F⟩,
      civ := ⟨0x11111111, 0x22222222, 0x33333333, 0x44444444⟩,
      cdin := ⟨0x00112233, 0x44556677, 0x8899AABB, 0⟩, dinIdx := 3 }))).cipher.civ =
      ⟨0x11013121, 0x62724252, 0xB3A39383, 0x8494A4B4⟩ := by decide

theorem test_cdinR : answer (.cdinR .b4) (smallCipher { CipherUnit.reset with cdin := ⟨1, 2, 3, 4⟩ }) = .data .b4 0 := by
  decide

/-- V47: the low byte of word 1, swapped, and the index advances. -/
theorem test_cdoutR :
    answer (.cdoutR .b1) (smallCipher { CipherUnit.reset with
      cdout := ⟨0x00102030, 0x40506070, 0x8090A0B0, 0xC0D0E0F0⟩, outIdx := 1 }) = .data .b1 0x40 ∧
    (after (exec (.cdoutR .b1) (smallCipher { CipherUnit.reset with outIdx := 1 }))).cipher.outIdx = 2 := by decide

theorem test_cdoutW :
    (after (exec (.cdoutW .b4 0xFFFFFFFF) (smallCipher { CipherUnit.reset with outIdx := 1 }))).cipher =
      { CipherUnit.reset with outIdx := 1 } := by decide

/-! ## GPIO (R353 to R361) -/

/-- V52. -/
theorem test_gpioReject :
    answer (.gpioRejectR 0x40004109 .b1) small = .data .b1 0 ∧
    (after (exec (.gpioRejectW 0x40004100 .b4 0xFFFFFFFF) small)).collab = small.collab := by decide

/-- V54: direction low, output data high, in the port and in the collaborator. -/
theorem test_pctlW :
    ((after (exec (.pctlW 1 .b4 0x12340FF0) small)).port 1).podr = 0x1234 ∧
    ((after (exec (.pctlW 1 .b4 0x12340FF0) small)).port 1).pdr = 0x0FF0 ∧
    (after (exec (.pctlW 1 .b4 0x12340FF0) small)).pins 1 = ⟨0x0FF0, 0x1234, 0⟩ := by decide

/-- V51: a 16-bit write zeroes the output half. -/
theorem test_pctlW_half :
    (after (exec (.pctlW 0 .b2 0x0F0F) (small.setPins 0 ⟨0x00FF, 0xFFFF, 0⟩))).pins 0 = ⟨0x0F0F, 0, 0⟩ := by decide

/-- V50. -/
theorem test_pctlR :
    answer (.pctlR 2 .b4) (small.setPins 2 ⟨0x00FF, 0x00F0, 0xAA00⟩) = .data .b4 0x00F000FF ∧
    answer (.pctlR 2 .b2) (small.setPins 2 ⟨0x00FF, 0x00F0, 0xAA00⟩) = .data .b2 0x00FF := by decide

/-- V50. -/
theorem test_pinR :
    answer (.pinR 2 .b4) (small.setPins 2 ⟨0x00FF, 0x00F0, 0xAA00⟩) = .data .b4 0x00FFAAF0 := by decide

theorem test_pinW :
    (after (exec (.pinW 2 .b4 0xFFFFFFFF) (small.setPins 2 ⟨0x00FF, 0x00F0, 0xAA00⟩))).pins 2 =
      ⟨0x00FF, 0x00F0, 0xAA00⟩ := by decide

/-- V53: one latch, not its neighbour. -/
theorem test_pfsW :
    ((after (exec (.pfsW 3 4 .b4 0x11223344) small)).port 3).pfs[4] = 0x44 ∧
    ((after (exec (.pfsW 3 4 .b4 0x11223344) small)).port 3).pfs[5] = 0x00 := by decide

theorem test_pfsR :
    answer (.pfsR 7 15 .b1) (small.setPort 7 { GpioPort.reset with pfs := Vector.replicate 16 0xC3 }) =
      .data .b1 0xC3 := by decide

/-- V54. -/
theorem test_pinOverride :
    (after (envPinOverride 1 none (some 0xFFFF) none (small.setPins 1 ⟨0x0FF0, 0x1234, 1⟩))).pins 1 =
      ⟨0x0FF0, 0xFFFF, 1⟩ := by decide

/-! ## Accesses to no register (R163 to R166) -/

theorem test_noreg_reads :
    answer (.noregRTimer 0x40000001 .b1) sleeping = .data .b1 0 ∧ answer (.noregRSerial 0x40001006 .b2) oneByte = .data .b2 0 ∧
    answer (.noregRFlashc 0x4000200F .b1) endBytes = .data .b1 0 ∧ answer (.noregRCipher 0x40003018 .b4) small = .data .b4 0 ∧
    answer (.noregRGpio 0x40004001 .b1) small = .data .b1 0 ∧ answer (.unmappedR 0x50000000 .b4) small = .data .b4 0 := by
  decide

theorem test_noreg_writes :
    (after (exec (.noregWTimer 0x4000003F .b1 0xFF) sleeping)).timers = sleeping.timers ∧
    (after (exec (.noregWSerial 0x40001003 .b1 1) oneByte)).serials = oneByte.serials ∧
    (after (exec (.noregWFlashc 0x40002001 .b2 0xFFFF) endBytes)).flash = endBytes.flash ∧
    (after (exec (.noregWCipher 0x4000301C .b4 1) small)).cipher = small.cipher ∧
    (after (exec (.noregWGpio 0x40004008 .b1 0xAA) small)).ports = small.ports ∧
    (after (exec (.unmappedW 0 .b4 0xDEADBEEF) small)).flash = small.flash := by decide

/-! ## The step -/

/-- A word stored where the step takes its next access is the access the very next step performs. -/
theorem test_withFetchWord :
    ((after (step (small.withFetchWord 72 0x44000002000000034))).timer 2).tcnt = 0x0034 := by decide

/-- V13. -/
theorem test_step_refuses_size_three : refusal (step (small.withFetchWord 72 0x74000000000000000)) = some .notAnAccess := by
  decide

/-- R430: every register 0 after reset, whatever the clear code. -/
theorem test_reset_fcmd : (State.init { cfg0 with fcmdClear := 0x10 }).flash.fcmd = 0x00 := by decide

/-- R434. -/
theorem test_boot : refusal (State.boot { cfg0 with rxCap := 0 }) = some .badConfiguration := by decide

/-! ## For every statement with hypotheses, a state and operands that meet them -/

/-- The small configuration where an agent may fail to come into being. -/
def mayFail : State := .init { smallCfg with spawnMayFail := true }

/-- The small configuration with an external collaborator. -/
def external : State := .init { smallCfg with collab := .external }

/-- A wired channel with `TXIE` set, its transmit line down. -/
def transmitting : State := smallSerial { SerialCh.reset smallCfg with sctl := 0x0001 }

/-- The same with the transmit line up. -/
def transmitted : State := { transmitting with irqHigh := [8], hist := [.assert 8] }

/-- What the invariant says beside the configuration, by parts. -/
def blockOk (s : State) : Bool :=
  decide (s.timers.length = s.cfg.numTimer ∧ s.serials.length = s.cfg.numSerial ∧ s.ports.length = s.cfg.numPorts ∧
    s.collab.pins.length = s.cfg.numPorts) &&
  decide (∀ t ∈ s.timers, TimerOk s.cfg t) && decide (∀ ch, ch < s.cfg.numSerial → SerialOk s.cfg ch (s.serial ch)) &&
  decide (FlashOk s.cfg s.flash) && decide (LinesOk s)

/-- A state of the small configuration whose parts are in order meets the invariant. -/
theorem small_inv {s : State} (hc : s.cfg = smallCfg) (h : blockOk s = true) : s.Inv := by
  simp only [blockOk, Bool.and_eq_true, decide_eq_true_eq] at h
  obtain ⟨⟨⟨⟨⟨h1, h2, h3, h4⟩, h5⟩, h6⟩, h7⟩, h8⟩ := h
  exact ⟨hc ▸ test_small_cfg_wf, h1, h2, h3, h4, h5, h6, h7, h8⟩

theorem witness_DecodeEncodeRoundTrip :
    cfg0.WF ∧ (Instr.pfsW 7 15 .b4 0xFFFFFFFF).WF cfg0 ∧ (Instr.flashdR 0xFFF .b4).WF cfg0 ∧
    (Instr.unmappedR 0xFFFFFFFF .b1).WF cfg0 :=
  ⟨test_cfg0_wf, by decide⟩

theorem witness_DecodedOperationIsTheAccess :
    cfg0.WF ∧ accessOfTxn cfg0 0x44000000412345601 = some ⟨true, .b1, 0x40000004, 0x01⟩ := by decide

theorem witness_OnlyWidthsOutsideTheListAreRefused :
    (0x74000000000000000 : BitVec 67).extractLsb' 64 2 = 3 ∧
    (0x74000000000000000 : Txn) < 2 ^ cfg0.txnBits ∧ txnSize cfg0 0x74000000000000000 = 3 ∧
    (scheduled small [.bus 0x74000000000000000]).schedule = [.bus 0x74000000000000000] ∧
    decode small.cfg 0x74000000000000000 = none := by decide

theorem witness_DecodeAgreesWithOpcodeTable : (0x640003010FFEEDDCC : BitVec 67).extractLsb' 64 2 ≠ 3 := by decide

theorem witness_DecodeDependsOnDirectionAddressLowByte :
    decode cfg0 0x44000000400000001 = some (.tctlStart 0 .b1 0x01) ∧
    decode cfg0 0x64000000412345601 = some (.tctlStart 0 .b4 0x12345601) ∧
    txnWrite cfg0 0x44000000400000001 = txnWrite cfg0 0x64000000412345601 ∧
    txnAddr cfg0 0x44000000400000001 = txnAddr cfg0 0x64000000412345601 ∧
    (txnData 0x44000000400000001).setWidth 8 = (txnData 0x64000000412345601).setWidth 8 := by decide

theorem witness_StepPerformsTheScheduledAction :
    (scheduled small [.bus 0x44000002000000034]).schedule = [.bus 0x44000002000000034] ∧
    decode (scheduled small [.bus 0x44000002000000034]).cfg 0x44000002000000034 = some (.tcntW 2 .b1 0x34) ∧
    (scheduled small [.tCheck 1]).schedule = [.tCheck 1] ∧ small.schedule = [] := by decide

theorem witness_StepKeepsInvariant :
    ∃ s s' : State, s.Inv ∧ step s = .next s' ∧ s.schedule = [.tExpire 1] :=
  ⟨scheduled sleeping [.tExpire 1], _, small_inv rfl (by decide), rfl, rfl⟩

/-- The relation holds where one byte is unread and the line is up. -/
theorem oneByte_rx_ready (as : List Action) : RxReadyOk (scheduled oneByte as) := by
  intro ch l hch hl
  have h4 : ch < 4 := hch
  match ch, h4 with
  | 0, _ =>
    have h : some 10 = some l := hl
    cases h
    exact ⟨fun _ => Or.inr rfl, fun h => by cases h⟩
  | 1, _ => have h : none = some l := hl; cases h
  | 2, _ => have h : none = some l := hl; cases h
  | 3, _ => have h : none = some l := hl; cases h

theorem witness_StepKeepsRxReadyRelation :
    ∃ s s' : State, s.Inv ∧ RxReadyOk s ∧ step s = .next s' :=
  ⟨scheduled oneByte [.bus 0x04000100200000000], _, small_inv rfl (by decide), oneByte_rx_ready _, rfl⟩

theorem witness_InitialStateMeetsInvariants : smallCfg.WF ∧ cfg0.WF := ⟨test_small_cfg_wf, test_cfg0_wf⟩

theorem witness_IllFormedConfigurationRefused : accepted cfg0 = true ∧ accepted { cfg0 with rxCap := 0 } = false := by
  decide

theorem witness_ResetTable : 3 < cfg0.numTimer ∧ 3 < cfg0.numSerial ∧ 255 < cfg0.rxCap ∧ 7 < cfg0.numPorts := by decide

theorem witness_EveryOperationCompletes :
    ((Instr.pctlW 7 .b4 0xFFFFFFFF).access cfg0).write = true ∧ ((Instr.pctlR 7 .b1).access cfg0).write = false := by
  decide

theorem witness_LineLevelsSummarizeHistory :
    ∃ s s' : State, (∀ l, s.irqLevel l = levelAfter l s.hist) ∧ step s = .next s' ∧ s.irqLevel 10 = true := by
  refine ⟨scheduled oneByte [.bus 0x04000100200000000], _, ?_, rfl, rfl⟩
  intro l
  by_cases h : l = 10
  · subst h; rfl
  · have h' : ¬ 10 = l := fun e => h e.symm
    simp [State.irqLevel, levelAfter, scheduled, oneByte, Event.line, h, h']

theorem witness_AtMostOneLineEventPerStep :
    (∃ s', step (scheduled sleeping [.tExpire 1]) = .next s') ∧ ∃ s', step (scheduled checking [.tCheck 1]) = .next s' :=
  ⟨⟨_, rfl⟩, ⟨_, rfl⟩⟩

theorem witness_TransmitLineNeverCleared :
    (∃ s', (scheduled transmitting [.bus 0x4400010000000004F]).Inv ∧ 0 < smallCfg.numSerial ∧
      txeLine smallCfg 0 = some 8 ∧ step (scheduled transmitting [.bus 0x4400010000000004F]) = .next s' ∧
      transmitting.irqLevel 8 = false ∧ s'.irqLevel 8 = true) ∧
    ∃ s', (scheduled transmitted [.bus 0x54000100400000000]).Inv ∧
      step (scheduled transmitted [.bus 0x54000100400000000]) = .next s' ∧ transmitted.irqLevel 8 = true :=
  ⟨⟨_, small_inv rfl (by decide), by decide, rfl, rfl, rfl, rfl⟩, ⟨_, small_inv rfl (by decide), rfl, rfl⟩⟩

theorem witness_RunningFlagTransitions :
    (∃ s', step (scheduled (smallTimer ⟨1, 0, true, true, .check⟩) [.tCheck 1]) = .next s' ∧
      (s'.timer 1).running = false) ∧
    ∃ s', step (scheduled small [.bus 0x44000001400000001]) = .next s' ∧ (small.timer 1).running = false ∧
      (s'.timer 1).running = true :=
  ⟨⟨_, rfl, rfl⟩, ⟨_, rfl, rfl, rfl⟩⟩

theorem witness_FlashArrayChangesOnlyByCommands :
    ∃ s', step (scheduled (smallFlash ⟨0, 0, 0x40100FFF, 0, 0x77, []⟩) [.bus 0x44000200000000001]) = .next s' ∧
      s'.flash.mem = [(0xFFF, 0x77)] ∧ s'.flash.fcmd = 0x01 := ⟨_, rfl, by decide⟩

theorem witness_StreamsOnlyGrow :
    ∃ s', step (scheduled transmitting [.bus 0x4400010000000004F]) = .next s' ∧ (s'.serial 0).txOut = [0x4F] :=
  ⟨_, rfl, by decide⟩

theorem witness_OperationTouchesOnlyItsOwner :
    (∃ t, exec (.stxdW 0 .b1 0x4F) transmitting = .next t ∧ t.irqLevel 8 ≠ transmitting.irqLevel 8) ∧
    (∃ t, exec (.unmappedR 0 .b1) small = .next t) ∧
    operationOwner (.stxdW 0 .b1 0x4F) = some (.serial 0) ∧ operationOwner (.stxdW 0 .b1 0x4F) ≠ some (.timer 0) ∧
    operationOwner (.stxdW 0 .b1 0x4F) ≠ some (.serial 1) ∧ operationOwner (.stxdW 0 .b1 0x4F) ≠ some .flashc ∧
    operationOwner (.stxdW 0 .b1 0x4F) ≠ some .cipher ∧ operationOwner (.stxdW 0 .b1 0x4F) ≠ some .gpio ∧
    (∀ ch, operationOwner (.ccmdR .b4) ≠ some (.serial ch)) ∧ operationOwner (.unmappedR 0 .b1) = none :=
  ⟨⟨_, rfl, by decide⟩, ⟨_, rfl⟩, rfl, by decide, by decide, by decide, by decide, by decide,
    (fun ch h => by cases h), rfl⟩

theorem witness_AgentsLeaveFlashCipherPortsAlone :
    ∃ s', step (scheduled sleeping [.tExpire 1]) = .next s' ∧
      ∀ t rest, (scheduled sleeping [.tExpire 1]).schedule ≠ .bus t :: rest :=
  ⟨_, rfl, fun t rest h => by cases h⟩

theorem witness_TimerLatchesReadBack : 3 < small.timers.length ∧ (0 : Nat) ≠ 3 := by decide

theorem witness_IntervalAtDefaultConfiguration :
    timerFreqValid cfg0 0x0000 = true ∧ timerFreqValid cfg0 0x0050 = true ∧ timerFreqValid cfg0 0x0060 = false := by decide

theorem witness_StartCommand :
    (sleeping.timer 1).running = true ∧
    ((small.timer 1).running = false ∧ timerDiv small.cfg (small.timer 1).tmod ≠ 0 ∧ small.cfg.spawnMayFail = false) ∧
    (((smallTimer ⟨0, 0x0061, false, false, .off⟩).timer 1).running = false ∧ timerDiv smallCfg 0x0061 = 0) ∧
    ((mayFail.timer 1).running = false ∧ timerDiv mayFail.cfg (mayFail.timer 1).tmod ≠ 0 ∧
      mayFail.cfg.spawnMayFail = true) := by decide

theorem witness_StopAndOtherCommands : (sleeping.timer 1).running = true ∧ (small.timer 1).running = false := by decide

theorem witness_StopThenStartGoesOn : 1 < sleeping.timers.length ∧ (sleeping.timer 1).running = true := by decide

theorem witness_TimingAgentSteps :
    ((checking.timer 1).tphase = .check ∧ (checking.timer 1).stopReq = false ∧ timerDiv smallCfg (checking.timer 1).tmod ≠ 0) ∧
    (((smallTimer ⟨1, 0, true, true, .check⟩).timer 1).tphase = .check ∧
      ((smallTimer ⟨1, 0, true, true, .check⟩).timer 1).stopReq = true) ∧
    (((smallTimer ⟨1, 0x0071, true, false, .check⟩).timer 1).tphase = .check ∧
      ((smallTimer ⟨1, 0x0071, true, false, .check⟩).timer 1).stopReq = false ∧ timerDiv smallCfg 0x0071 = 0) ∧
    (small.timer 1).tphase ≠ .check ∧
    ((sleeping.timer 1).tphase = .sleep 2000 ∧ repeatMode smallCfg (sleeping.timer 1).tmod = true) ∧
    (((smallTimer ⟨1, 0, true, false, .sleep 1⟩).timer 1).tphase = .sleep 1 ∧ repeatMode smallCfg 0 = false) := by decide

theorem witness_TimingAgentSteps_refused : ∀ i, (small.timer 1).tphase ≠ .sleep i := fun i h => by cases h

theorem witness_TimerEventsCarryTheInterval :
    (scheduled small [.tCheck 1, .tExpire 1]).Inv ∧ 1 < smallCfg.numTimer ∧ timerLineOf smallCfg 1 = some 1 ∧
    (small.timer 1).running = false ∧ timerFreqValid smallCfg (writeOperand 16 .b2 0x0011) = true ∧
    ∃ s1 s2, execAll [.tcntW 1 .b2 0x03E8, .tmodW 1 .b2 0x0011, .tctlStart 1 .b1 0x01]
        (scheduled small [.tCheck 1, .tExpire 1]) = .next s1 ∧
      (∀ a ∈ s1.schedule, ¬ a.writesTimer s1.cfg 1) ∧ stepN 2 s1 = .next s2 ∧ s2.hist = [.pulse 1 (some 2000)] := by
  refine ⟨small_inv rfl (by decide), by decide, rfl, rfl, by decide, _, _, rfl, ?_, rfl, by decide⟩
  intro a ha
  have h : a ∈ [Action.tCheck 1, Action.tExpire 1] := ha
  rcases List.mem_cons.1 h with rfl | h
  · rintro ⟨i, hi, _⟩; cases hi
  · rw [List.mem_singleton] at h
    subst h
    rintro ⟨i, hi, _⟩; cases hi

theorem witness_ReceiveDataRead : (small.serial 0).rxCount = 0 ∧ (oneByte.serial 0).rxCount ≠ 0 := by decide

theorem witness_InterruptBridge : (9 : Nat) ≠ 8 := by decide

theorem witness_ReceivePathSteps :
    (small.cfg.transportOk.getD 0 false = true ∧ [0x68#8] ≠ []) ∧ small.cfg.transportOk.getD 4 false = false ∧
    ((smallSerial { SerialCh.reset smallCfg with rxIn := [1] }).serial 0).rxPending = false ∧
    1 ≤ ((smallSerial { SerialCh.reset smallCfg with rxIn := [1] }).serial 0).rxIn.length ∧
    (small.serial 0).rxIn.length < 1 ∧
    ((smallSerial { SerialCh.reset smallCfg with rxPending := true }).serial 0).rxPending = true := by decide

theorem witness_RingBufferRefinesBoundedQueue :
    (∃ s', (smallSerial { SerialCh.reset smallCfg with rxIn := [1, 2, 3, 4, 5] }).Inv ∧ 0 < smallCfg.numSerial ∧
      agentRxPush 0 5 (smallSerial { SerialCh.reset smallCfg with rxIn := [1, 2, 3, 4, 5] }) = .next s') ∧
    ∃ s', oneByte.Inv ∧ exec (.srxdR 0 .b1) oneByte = .next s' :=
  ⟨⟨_, small_inv rfl (by decide), by decide, rfl⟩, ⟨_, small_inv rfl (by decide), rfl⟩⟩

theorem witness_TransmitAssertsOncePerByte :
    transmitting.Inv ∧ 0 < transmitting.cfg.numSerial ∧ txie transmitting.cfg (transmitting.serial 0).sctl = true ∧
    txeLine transmitting.cfg 0 = some 8 ∧ txcLine transmitting.cfg 0 = some 9 ∧
    txie transmitting.cfg (writeOperand 16 .b2 0xFFFE) = false :=
  ⟨small_inv rfl (by decide), by decide⟩

theorem witness_ReceivedBytesComeBackInOrder :
    (smallCfg.WF ∧ SerialOk smallCfg 0 (.reset smallCfg) ∧ (SerialCh.reset smallCfg).rxCount = 0 ∧
      ([[9, 8], [7, 6]] : List (List Byte)).flatten.length = smallCfg.rxCap) ∧
    oneByte.Inv ∧ 0 < oneByte.cfg.numSerial ∧ 0 < (oneByte.serial 0).rxCount :=
  ⟨⟨test_small_cfg_wf, by decide⟩, small_inv rfl (by decide), by decide⟩

/-- The first and the last address of the window. -/
theorem witness_WriteCommandProgramsOneByte :
    endBytes.flash.mem.wf = true ∧ (0xFFF : Nat) < endBytes.cfg.flashSize ∧
    (0x40100FFF : Word).toNat = endBytes.cfg.flashdBase + 0xFFF ∧ (0x40100000 : Word).toNat = endBytes.cfg.flashdBase := by
  decide

theorem witness_EraseCommandZeroesTheRange :
    endBytes.flash.mem.wf = true ∧ (0xFFF : Nat) < endBytes.cfg.flashSize := by decide

theorem witness_FlashWindowReads : 3 < Width.b4.bytes ∧ endBytes.cfg.flashSize ≤ 0x1000 := by decide

/-- Both clauses at the edges of the window. -/
theorem witness_ProgrammedByteReadsBack :
    endBytes.Inv ∧
    ((0x40100FFF : Word).toNat = endBytes.cfg.flashdBase + 0xFFF ∧ 0xFFF < endBytes.cfg.flashSize) ∧
    (0x400FFFFF : Word).toNat < endBytes.cfg.flashdBase ∧
    endBytes.cfg.flashdBase + endBytes.cfg.flashSize ≤ (0x40101000 : Word).toNat :=
  ⟨small_inv rfl (by decide), by decide⟩

/-- A valid range that is the whole window; an end one past it; an end below the start. -/
theorem witness_ErasedRangeReadsZero :
    endBytes.Inv ∧
    (endBytes.cfg.flashdBase ≤ (0x40100000 : Word).toNat ∧ (0x40100000 : Word).toNat ≤ (0x40100FFF : Word).toNat ∧
      (0x40100FFF : Word).toNat < endBytes.cfg.flashdBase + endBytes.cfg.flashSize) ∧
    endBytes.cfg.flashdBase + endBytes.cfg.flashSize ≤ (0x40101000 : Word).toNat ∧
    (0x40100000 : Word).toNat < (0x40100001 : Word).toNat :=
  ⟨small_inv rfl (by decide), by decide⟩

theorem witness_ByteSwapReversesBytes : (3 : Nat) < 4 := by decide

theorem witness_FourthInputWordTransforms :
    CipherUnit.reset.dinIdx ≠ 3 ∧ ({ CipherUnit.reset with dinIdx := 3 } : CipherUnit).dinIdx = 3 ∧
    (cipherCbc smallCfg 0x0 = false ∧ cipherDecrypt smallCfg 0x0 = false) ∧
    (cipherCbc smallCfg 0x1 = false ∧ cipherDecrypt smallCfg 0x1 = true) ∧
    (cipherCbc smallCfg 0x2 = true ∧ cipherDecrypt smallCfg 0x2 = false) ∧
    (cipherCbc smallCfg 0x3 = true ∧ cipherDecrypt smallCfg 0x3 = true) := by decide

/-- The toy cipher of the vectors inverts. -/
theorem witness_CipherRoundTrip :
    small.cfg.WF ∧ small.cfg.ccmdDirBit ≠ small.cfg.ccmdCbcBit ∧ (∀ k b, bcDec small.cfg k (bcEnc small.cfg k b) = b) ∧ small.cipher.keyIdx = 0 ∧
    small.cipher.dinIdx = 0 ∧ (0x2 : Word).getLsbD small.cfg.ccmdDirBit = false := by
  refine ⟨test_small_cfg_wf, by decide, ?_, rfl, rfl, by decide⟩
  intro k b
  show quadXor (quadXor b k) k = b
  simp [quadXor]

theorem witness_PortControlAndPins : small.cfg.collab = .null ∧ external.cfg.collab = .external := by decide

theorem witness_AlternateFunctionLatches : 7 < small.ports.length ∧ (15 : Fin 16) ≠ 0 := by decide

theorem witness_CollaboratorOverride :
    (7 < small.cfg.numPorts ∧ small.cfg.collab = .null) ∧ 7 < external.cfg.numPorts ∧ external.cfg.collab = .external := by
  decide

theorem witness_PortReadsBackWhatWasWritten :
    (scheduled small [.pinOverride 7 none none (some 0xAA00), .bus 0x640004000FFFF00FF]).Inv ∧
    small.cfg.collab = .null ∧ 7 < small.cfg.numPorts ∧
    ∃ s1 s2, exec (.pctlW 7 .b4 0x12340FF0)
        (scheduled small [.pinOverride 7 none none (some 0xAA00), .bus 0x640004000FFFF00FF]) = .next s1 ∧
      (∀ a ∈ s1.schedule, ¬ a.drivesPort s1.cfg 7) ∧ stepN 2 s1 = .next s2 := by
  refine ⟨small_inv rfl (by decide), rfl, by decide, _, _, rfl, ?_, rfl⟩
  intro a ha
  have h : a ∈ [Action.pinOverride 7 none none (some 0xAA00), Action.bus 0x640004000FFFF00FF] := ha
  rcases List.mem_cons.1 h with rfl | h
  · rintro (⟨w, v, hw⟩ | ⟨d, o, e, he, hd⟩)
    · cases hw
    · cases he; simp at hd
  · rw [List.mem_singleton] at h
    subst h
    rintro (⟨w, v, hw⟩ | ⟨d, o, e, he, _⟩)
    · have hd : decode smallCfg 0x640004000FFFF00FF = some (.pctlW 0 .b4 0xFFFF00FF) := by decide
      have hw' : decode smallCfg 0x640004000FFFF00FF = some (.pctlW 7 w v) := hw
      rw [hd] at hw'
      cases hw'
    · cases he

end Sys2Proof.Tests
end

section
/-! SUPPORT. What the machine's step is for each head of the schedule, and what a step of an agent or of the environment
did where it was taken: that it was enabled, and the whole next state. -/

namespace Sys2Proof.Machine

theorem step_of_schedule_nil {s : State} (h : s.schedule = []) : step s = .next s := by
  rw [step, h]

theorem step_of_schedule_cons {s : State} {a : Action} {rest : List Action} (h : s.schedule = a :: rest) :
    step s = perform a { s with schedule := rest } := by
  rw [step, h]

theorem perform_bus (t : Txn) (s : State) : perform (.bus t) s = busAccess t s := rfl

theorem busAccess_of_decode {s : State} {t : Txn} {i : Instr} (h : decode s.cfg t = some i) :
    busAccess t s = exec i s := by
  rw [busAccess, h]

/-- A bus access that completes is the operation its word decodes to. -/
theorem busAccess_spec {s s' : State} {t : Txn} (h : busAccess t s = .next s') :
    ∃ i, decode s.cfg t = some i ∧ exec i s = .next s' := by
  cases hd : decode s.cfg t with
  | none => rw [busAccess, hd] at h; cases h
  | some i => exact ⟨i, rfl, busAccess_of_decode hd ▸ h⟩

theorem agentTCheck_spec {n : Nat} {s s' : State} (h : agentTCheck n s = .next s') :
    (s.timer n).tphase = .check ∧ s' = s.setTimer n (checkedTimer s.cfg (s.timer n)) := by
  unfold agentTCheck at h
  split at h
  · next hp => cases h; exact ⟨hp, rfl⟩
  · cases h

theorem agentTExpire_spec {n : Nat} {s s' : State} (h : agentTExpire n s = .next s') :
    ∃ i, (s.timer n).tphase = .sleep i ∧
      s' = (irqPulse (timerLineOf s.cfg n) (some i) s).setTimer n (expiredTimer s.cfg (s.timer n)) := by
  unfold agentTExpire at h
  split at h
  · next i hp => cases h; exact ⟨i, hp, rfl⟩
  · cases h

theorem envRxDeliver_spec {ch : Nat} {bytes : List Byte} {s s' : State} (h : envRxDeliver ch bytes s = .next s') :
    s.cfg.transportOk.getD ch false = true ∧ bytes ≠ [] ∧
      s' = s.setSerial ch { s.serial ch with rxIn := (s.serial ch).rxIn ++ bytes } := by
  unfold envRxDeliver at h
  split at h
  · next hc =>
    rw [Bool.and_eq_true, decide_eq_true_eq] at hc
    cases h
    exact ⟨hc.1, hc.2, rfl⟩
  · cases h

theorem rxPushEnabled_iff {c : Cfg} {ch k : Nat} {x : SerialCh} : rxPushEnabled c ch k x = true ↔
    c.transportOk.getD ch false = true ∧ x.rxPending = false ∧ 1 ≤ k ∧ k ≤ x.rxIn.length := by
  simp [rxPushEnabled, and_assoc]

/-- The channel after the chunk of `RX.PUSH ch, k`, before the assertion is made or left pending (R236). -/
def pushedSerial (c : Cfg) (k : Nat) (x : SerialCh) : SerialCh :=
  pushChunk c.rxCap { x with rxIn := x.rxIn.drop k } (x.rxIn.take k)

/-- The two outcomes of `RX.PUSH` (R236): the assertion made at once, or left pending. -/
theorem agentRxPush_spec {ch k : Nat} {s s' : State} (h : agentRxPush ch k s = .next s') :
    rxPushEnabled s.cfg ch k (s.serial ch) = true ∧
    ((s.cfg.rxAssertAtomic = true ∧
        s' = irqAssert (rxrLine s.cfg ch) (s.setSerial ch (pushedSerial s.cfg k (s.serial ch)))) ∨
     (s.cfg.rxAssertAtomic = false ∧
        s' = s.setSerial ch { pushedSerial s.cfg k (s.serial ch) with rxPending := true })) := by
  unfold agentRxPush at h
  dsimp only at h
  split at h
  · next he =>
    refine ⟨he, ?_⟩
    split at h
    · next ha => cases h; exact .inl ⟨ha, rfl⟩
    · next ha => cases h; exact .inr ⟨Bool.eq_false_iff.2 ha, rfl⟩
  · cases h

theorem agentRxAssert_spec {ch : Nat} {s s' : State} (h : agentRxAssert ch s = .next s') :
    (s.serial ch).rxPending = true ∧
      s' = irqAssert (rxrLine s.cfg ch) (s.setSerial ch { s.serial ch with rxPending := false }) := by
  unfold agentRxAssert at h
  split at h
  · next hp => cases h; exact ⟨hp, rfl⟩
  · cases h

end Sys2Proof.Machine
end

section
/-! SUPPORT. Each unit's own invariant under the updates of that unit (R31, R38, R49, R53). -/

namespace Sys2Proof.Machine

/-! ## Timer channels (R31) -/

theorem TimerOk.reset (c : Cfg) : TimerOk c .reset := by
  simp [TimerOk, TimerCh.reset]

/-- Also a channel that is not there meets R31: it reads as one after reset. -/
theorem State.Inv.timerOk {s : State} (h : s.Inv) (n : Nat) : TimerOk s.cfg (s.timer n) := by
  obtain ⟨_, _, _, _, _, htimers, _⟩ := h
  by_cases hn : n < s.timers.length
  · have hget : s.timer n = s.timers[n] := by simp [State.timer, hn]
    exact hget ▸ htimers _ (List.getElem_mem hn)
  · have hget : s.timer n = .reset := by simp [State.timer, hn]
    exact hget ▸ TimerOk.reset s.cfg

/-- A stop request may stand, or be withdrawn, on a running channel. -/
theorem TimerOk.setStopReq {c : Cfg} {t : TimerCh} (b : Bool) (h : TimerOk c t) (hr : t.running = true) :
    TimerOk c { t with stopReq := b } := by
  obtain ⟨_, hphase, hinert⟩ := h
  exact ⟨fun hr' => absurd (hr.symm.trans hr') (by decide), hphase, hinert⟩

/-- An agent that goes on keeps its channel running. -/
theorem TimerOk.setPhase {c : Cfg} {t : TimerCh} {p : TPhase} (h : TimerOk c t) (ht : t.tphase ≠ .off)
    (hp : p ≠ .off) : TimerOk c { t with tphase := p } := by
  obtain ⟨_, hphase, _⟩ := h
  exact ⟨fun hr => absurd ((hphase ht).symm.trans hr) (by decide), fun _ => hphase ht, fun _ hoff => absurd hoff hp⟩

theorem TimerOk.ended {c : Cfg} {t : TimerCh} (hr : t.running = false) (hs : t.stopReq = false)
    (hp : t.tphase = .off) : TimerOk c t := by
  simp [TimerOk, hr, hs, hp]

theorem TimerOk.armed {c : Cfg} {t : TimerCh} {ok : Bool} (hok : ok = true ∨ c.spawnMayFail = true) :
    TimerOk c { t with running := true, stopReq := false, tphase := if ok then .check else .off } := by
  cases ok <;> simp_all [TimerOk]

theorem TimerOk.checked {c : Cfg} {t : TimerCh} (h : TimerOk c t) (ht : t.tphase ≠ .off) :
    TimerOk c (checkedTimer c t) := by
  rcases checkedTimer_spec c t with ⟨_, e⟩ | ⟨_, _, e⟩ | ⟨hs, _, e⟩ <;> rw [e]
  · exact .ended rfl rfl rfl
  · exact h.setPhase ht (by simp)
  · exact .ended rfl hs rfl

theorem TimerOk.expired {c : Cfg} {t : TimerCh} (h : TimerOk c t) (ht : t.tphase ≠ .off) :
    TimerOk c (expiredTimer c t) := by
  rcases expiredTimer_spec c t with ⟨_, e⟩ | ⟨_, e⟩ <;> rw [e]
  · exact h.setPhase ht (by simp)
  · exact .ended rfl rfl rfl

/-! ## Serial channels (R38) -/

theorem State.Inv.serialOk {s : State} (h : s.Inv) {ch : Nat} (hch : ch < s.cfg.numSerial) :
    SerialOk s.cfg ch (s.serial ch) := by
  obtain ⟨_, _, _, _, _, _, hserials, _⟩ := h
  exact hserials ch hch

theorem SerialOk.reset {c : Cfg} (hcap : 1 ≤ c.rxCap) (ch : Nat) : SerialOk c ch (.reset c) :=
  ⟨List.length_replicate, hcap, hcap, Nat.zero_le _, (Nat.zero_mod _).symm, nofun, fun _ => ⟨rfl, rfl, rfl⟩⟩

/-- On a channel whose transport is open only the ring buffer and the pending assertion are restricted. -/
theorem SerialOk.of_open {c : Cfg} {ch : Nat} {x : SerialCh} (ho : c.transportOk.getD ch false = true)
    (hring : RingOk c.rxCap x) (hp : x.rxPending = true → c.rxAssertAtomic = false) : SerialOk c ch x := by
  obtain ⟨hlen, hstart, hend, hcount, hpos⟩ := hring
  exact ⟨hlen, hstart, hend, hcount, hpos, fun h => ⟨ho, hp h⟩, fun h => absurd (ho.symm.trans h) (by decide)⟩

/-- An assertion is pending only where the push leaves it so (R40). -/
theorem SerialOk.not_atomic {c : Cfg} {ch : Nat} {x : SerialCh} (h : SerialOk c ch x) (hp : x.rxPending = true) :
    c.rxAssertAtomic = false := by
  obtain ⟨_, _, _, _, _, hpending, _⟩ := h
  exact (hpending hp).2

theorem SerialOk.open_of_count {c : Cfg} {ch : Nat} {x : SerialCh} (h : SerialOk c ch x) (hx : x.rxCount ≠ 0) :
    c.transportOk.getD ch false = true := by
  obtain ⟨_, _, _, _, _, _, hclosed⟩ := h
  by_contra ho
  obtain ⟨_, _, hcount⟩ := hclosed (Bool.eq_false_iff.2 ho)
  exact hx hcount

theorem SerialOk.open_of_pending {c : Cfg} {ch : Nat} {x : SerialCh} (h : SerialOk c ch x) (hp : x.rxPending = true) :
    c.transportOk.getD ch false = true := by
  obtain ⟨_, _, _, _, _, hpending, _⟩ := h
  exact (hpending hp).1

/-- `STXD.W` latches the byte, and hands it over only where the transport is open (R221). -/
theorem SerialOk.transmit {c : Cfg} {ch : Nat} {x : SerialCh} (b : Byte) (h : SerialOk c ch x) :
    SerialOk c ch (if c.transportOk.getD ch false then txOutByte { x with stxd := b } b else { x with stxd := b }) := by
  split
  · next ho => exact .of_open ho h.ring h.not_atomic
  · exact h

theorem SerialOk.popped {c : Cfg} {ch : Nat} {x : SerialCh} (h : SerialOk c ch x) (hx : x.rxCount ≠ 0) :
    SerialOk c ch (popByte c.rxCap x) :=
  .of_open (h.open_of_count hx) (popByte_ring h.ring hx) h.not_atomic

theorem SerialOk.deliver {c : Cfg} {ch : Nat} {x : SerialCh} (bytes : List Byte) (h : SerialOk c ch x)
    (ho : c.transportOk.getD ch false = true) : SerialOk c ch { x with rxIn := bytes } :=
  .of_open ho h.ring h.not_atomic

theorem pushedSerial_ring {c : Cfg} {ch k : Nat} {x : SerialCh} (h : SerialOk c ch x) :
    RingOk c.rxCap (pushedSerial c k x) :=
  pushChunk_ring _ (x := { x with rxIn := x.rxIn.drop k }) h.ring

theorem pushedSerial_rxPending (c : Cfg) (k : Nat) (x : SerialCh) : (pushedSerial c k x).rxPending = x.rxPending := by
  obtain ⟨_, _, hpending, _⟩ := pushChunk_frame c.rxCap { x with rxIn := x.rxIn.drop k } (x.rxIn.take k)
  exact hpending

theorem SerialOk.pushed {c : Cfg} {ch k : Nat} {x : SerialCh} (h : SerialOk c ch x)
    (ho : c.transportOk.getD ch false = true) : SerialOk c ch (pushedSerial c k x) :=
  .of_open ho (pushedSerial_ring h) fun hp => h.not_atomic (pushedSerial_rxPending c k x ▸ hp)

theorem SerialOk.pushed_pending {c : Cfg} {ch k : Nat} {x : SerialCh} (h : SerialOk c ch x)
    (ho : c.transportOk.getD ch false = true) (ha : c.rxAssertAtomic = false) :
    SerialOk c ch { pushedSerial c k x with rxPending := true } :=
  .of_open ho (pushedSerial_ring h) fun _ => ha

theorem SerialOk.asserted {c : Cfg} {ch : Nat} {x : SerialCh} (h : SerialOk c ch x) (hp : x.rxPending = true) :
    SerialOk c ch { x with rxPending := false } :=
  .of_open (h.open_of_pending hp) h.ring nofun

/-! ## The flash controller (R48, R49, R53) -/

theorem State.Inv.flashOk {s : State} (h : s.Inv) : FlashOk s.cfg s.flash := by
  obtain ⟨_, _, _, _, _, _, _, hflash, _⟩ := h
  exact hflash

theorem FlashOk.reset {c : Cfg} (hc : c.SizesOk) : FlashOk c (.reset c) := by
  obtain ⟨_, _, hsorted, hbytes⟩ := hc
  exact ⟨List.mem_cons_self, BitVec.zero_and,
    Memory.wf_of_pairwise hsorted fun x hx => (hbytes x hx).2, fun x hx => (hbytes x hx).1⟩

/-- No bit of the byte is outside the mask: bit by bit. -/
theorem and_not_eq_zero_iff {x m : Byte} :
    x &&& ~~~m = 0 ↔ ∀ i < 8, x.getLsbD i = true → m.getLsbD i = true := by
  constructor
  · intro h i hi hx
    have hbit : (x &&& ~~~m).getLsbD i = false := by rw [h]; exact BitVec.getLsbD_zero
    simpa [hi, hx] using hbit
  · intro h
    refine BitVec.eq_of_getLsbD_eq fun i hi => ?_
    simpa [hi] using h i hi

/-- Inverting bits inside a mask sets no bit outside it. -/
theorem xor_and_not_eq_zero {x k m : Byte} (hx : x &&& ~~~m = 0) (hk : k &&& ~~~m = 0) : (x ^^^ k) &&& ~~~m = 0 := by
  rw [and_not_eq_zero_iff] at *
  intro i hi hbit
  cases hxi : x.getLsbD i with
  | true => exact hx i hi hxi
  | false => exact hk i hi (by simpa [hxi] using hbit)

/-- Clearing bits sets none outside a mask. -/
theorem and_and_not_eq_zero {x k m : Byte} (hx : x &&& ~~~m = 0) : (x &&& k) &&& ~~~m = 0 := by
  rw [and_not_eq_zero_iff] at *
  intro i hi hbit
  rw [BitVec.getLsbD_and, Bool.and_eq_true] at hbit
  exact hx i hi hbit.1

theorem FlashOk.setFstat {c : Cfg} {f : FlashCtl} {x : Byte} (h : FlashOk c f)
    (hx : x &&& ~~~(c.fstatBusyMask ||| c.fstatRdToggleMask) = 0) : FlashOk c { f with fstat := x } := by
  obtain ⟨hcmd, _, hmem⟩ := h
  exact ⟨hcmd, hx, hmem⟩

theorem FlashOk.setFcmd {c : Cfg} {f : FlashCtl} {x : Byte} (h : FlashOk c f)
    (hx : x ∈ [0x00, c.fcmdClear, c.fcmdWrite, c.fcmdErase, c.fcmdBlank]) : FlashOk c { f with fcmd := x } := by
  obtain ⟨_, hstat, hmem⟩ := h
  exact ⟨hx, hstat, hmem⟩

theorem FlashOk.setMem {c : Cfg} {f : FlashCtl} {m : Memory} (h : FlashOk c f) (hwf : m.wf = true)
    (hspan : ∀ x ∈ m, x.1 < c.flashSize) : FlashOk c { f with mem := m } := by
  obtain ⟨hcmd, hstat, _⟩ := h
  exact ⟨hcmd, hstat, hwf, hspan⟩

/-- No status bit stands outside the two masks (R49). -/
theorem FlashOk.fstat_masked {c : Cfg} {f : FlashCtl} (h : FlashOk c f) :
    f.fstat &&& ~~~(c.fstatBusyMask ||| c.fstatRdToggleMask) = 0 := by
  obtain ⟨_, hstat, _⟩ := h
  exact hstat

theorem FlashOk.statusRead {c : Cfg} {f : FlashCtl} (h : FlashOk c f) :
    FlashOk c { f with fstat := fstatRead c f.fstat } :=
  h.setFstat (xor_and_not_eq_zero h.fstat_masked (and_not_eq_zero_iff.2 fun i _ hi => by simp [hi]))

theorem FlashOk.cleared {c : Cfg} {f : FlashCtl} (h : FlashOk c f) :
    FlashOk c { f with fcmd := c.fcmdClear, fstat := fstatCleared c f.fstat } :=
  (h.setFcmd (by simp)).setFstat (and_and_not_eq_zero h.fstat_masked)

/-- Issuing a command latches its code and inverts the busy bits (R273). -/
theorem FlashOk.issued {c : Cfg} {f : FlashCtl} {code : Byte} (h : FlashOk c f)
    (hcode : code ∈ [0x00, c.fcmdClear, c.fcmdWrite, c.fcmdErase, c.fcmdBlank]) : FlashOk c (issue c code f) :=
  (h.setFcmd hcode).setFstat
    (xor_and_not_eq_zero h.fstat_masked (and_not_eq_zero_iff.2 fun i _ hi => by simp [hi]))

theorem FlashOk.writeCommand {c : Cfg} {f : FlashCtl} (h : FlashOk c f) :
    FlashOk c { issue c c.fcmdWrite f with mem := programmed c f } := by
  have ⟨_, _, hwf, hspan⟩ := h
  exact (h.issued (by simp)).setMem (programmed_wf hwf) (programmed_span hspan)

theorem FlashOk.eraseCommand {c : Cfg} {f : FlashCtl} (h : FlashOk c f) :
    FlashOk c { issue c c.fcmdErase f with mem := erased c f } := by
  have ⟨_, _, hwf, hspan⟩ := h
  exact (h.issued (by simp)).setMem (erased_wf hwf) (erased_span hspan)

end Sys2Proof.Machine
end

section
/-! SUPPORT. The invariant of the machine under every bus operation, every step of an agent or of the environment, and
after reset. -/

namespace Sys2Proof.Machine

/-! ## The end of a bus operation -/

theorem Inv_of_finishWrite {s t : State} (h : s.Inv) (e : finishWrite s = .next t) : t.Inv := by
  cases e
  exact Inv_respond _ h

theorem Inv_of_finishRead {s t : State} {w : Width} {r : Word} (h : s.Inv) (e : finishRead w r s = .next t) :
    t.Inv := by
  cases e
  exact Inv_respond _ h

/-! ## Operations that write a unit in more than one way -/

theorem Inv_startTimer {s : State} (n : Nat) (h : s.Inv) : (startTimer n s).Inv := by
  rcases startTimer_spec n s with ⟨hr, e⟩ | ⟨_, _, e⟩ | ⟨_, _, e⟩ <;> rw [e]
  · exact Inv_setTimer ((h.timerOk n).setStopReq false hr) h
  · exact h
  · refine Inv_setTimer (TimerOk.armed ?_) (Inv_spawn h)
    rcases spawn_spec s with ⟨_, e⟩ | ⟨hfail, _⟩
    · exact .inl (congrArg Prod.fst e)
    · exact .inr (spawn_cfg s ▸ hfail)

theorem Inv_execTctlStop {s t : State} (n : Nat) (w : Width) (v : Word) (h : s.Inv)
    (e : execTctlStop n w v s = .next t) : t.Inv := by
  refine Inv_of_finishWrite ?_ e
  split
  · next hr => exact Inv_setTimer ((h.timerOk n).setStopReq true hr) h
  · exact h

theorem Inv_popSerial {s : State} (ch : Nat) (h : s.Inv) : (popSerial ch s).Inv := by
  have hpop (hx : (s.serial ch).rxCount ≠ 0) : (s.setSerial ch (popByte s.cfg.rxCap (s.serial ch))).Inv :=
    Inv_setSerial (fun hch => (h.serialOk hch).popped hx) h
  rcases popSerial_spec ch s with ⟨_, e⟩ | ⟨hx, e⟩ | ⟨hx, e⟩ <;> rw [e]
  · exact h
  · exact Inv_irqClear (fun _ => rxrLine_mem) (hpop (by omega))
  · exact hpop (by omega)

theorem Inv_execStxdW {s t : State} (ch : Nat) (w : Width) (v : Word) (h : s.Inv)
    (e : execStxdW ch w v s = .next t) : t.Inv := by
  refine Inv_of_finishWrite ?_ e
  have hset := Inv_setSerial (ch := ch) (fun hch => (h.serialOk hch).transmit (writeOperand 8 w v)) h
  split
  · exact Inv_irqAssert (fun _ => txeLine_mem) hset
  · exact hset

theorem Inv_execSctlW {s t : State} (ch : Nat) (w : Width) (v : Word) (h : s.Inv)
    (e : execSctlW ch w v s = .next t) : t.Inv := by
  refine Inv_of_finishWrite ?_ e
  have hset : (s.setSerial ch { s.serial ch with sctl := writeOperand 16 w v }).Inv :=
    Inv_setSerial (fun hch => h.serialOk hch) h
  split
  · exact Inv_irqPulse (fun _ => txcLine_mem) hset
  · exact hset

/-! ## Every bus operation -/

/-- A bus operation keeps the invariant, also one of a channel or port that is not there (R169). -/
theorem Inv_exec {s t : State} (i : Instr) (h : s.Inv) : exec i s = .next t → t.Inv :=
  match i with
  -- reads that change nothing
  | .tcntR .. | .tmodR .. | .tctlR .. | .stxdR .. | .sctlR .. => Inv_of_finishRead h
  | .fsahR .. | .fsalR .. | .feahR .. | .fealR .. | .fwdR .. | .fcmdR .. | .flashdR .. => Inv_of_finishRead h
  | .cmodeR .. | .ckeyR .. | .civR .. | .cdinR .. => Inv_of_finishRead h
  | .gpioRejectR .. | .pctlR .. | .pinR .. | .pfsR .. => Inv_of_finishRead h
  | .noregRTimer .. | .noregRSerial .. | .noregRFlashc .. | .noregRCipher .. => Inv_of_finishRead h
  | .noregRGpio .. | .unmappedR .. => Inv_of_finishRead h
  -- writes that are ignored
  | .tctlOther .. | .srxdW .. | .fcmdOther .. | .fstatW .. | .flashdW .. | .cdoutW .. => Inv_of_finishWrite h
  | .gpioRejectW .. | .pinW .. => Inv_of_finishWrite h
  | .noregWTimer .. | .noregWSerial .. | .noregWFlashc .. | .noregWCipher .. => Inv_of_finishWrite h
  | .noregWGpio .. | .unmappedW .. => Inv_of_finishWrite h
  -- timer channels
  | .tcntW n .. | .tmodW n .. => Inv_of_finishWrite (Inv_setTimer (h.timerOk n) h)
  | .tctlStart n .. => Inv_of_finishWrite (Inv_startTimer n h)
  | .tctlStop n w v => Inv_execTctlStop n w v h
  -- serial channels
  | .stxdW ch w v => Inv_execStxdW ch w v h
  | .srxdR ch _ => Inv_of_finishRead (Inv_popSerial ch h)
  | .sctlW ch w v => Inv_execSctlW ch w v h
  -- the flash controller
  | .fsahW .. | .fsalW .. | .feahW .. | .fealW .. | .fwdW .. => Inv_of_finishWrite (Inv_setFlash h.flashOk h)
  | .fcmdClear .. => Inv_of_finishWrite (Inv_setFlash h.flashOk.cleared h)
  | .fcmdWrite .. => Inv_of_finishWrite (Inv_setFlash h.flashOk.writeCommand h)
  | .fcmdErase .. => Inv_of_finishWrite (Inv_setFlash h.flashOk.eraseCommand h)
  | .fcmdBlank .. => Inv_of_finishWrite (Inv_setFlash (h.flashOk.issued (by simp)) h)
  | .fstatR .. => Inv_of_finishRead (Inv_setFlash h.flashOk.statusRead h)
  -- the cipher unit, of which the invariant says nothing
  | .ccmdW .. | .cmodeW .. | .ckeyW .. | .civW .. | .cdinW .. => Inv_of_finishWrite (Inv_setCipher _ h)
  | .ccmdR .. | .cdoutR .. => Inv_of_finishRead (Inv_setCipher _ h)
  -- ports
  | .pctlW .. => Inv_of_finishWrite (Inv_pinSet (Inv_setPort h))
  | .pfsW .. => Inv_of_finishWrite (Inv_setPort h)

/-! ## Steps of the agents and of the environment -/

theorem Inv_agentTCheck {s s' : State} {n : Nat} (h : s.Inv) (e : agentTCheck n s = .next s') : s'.Inv := by
  obtain ⟨hp, rfl⟩ := agentTCheck_spec e
  exact Inv_setTimer ((h.timerOk n).checked (by simp [hp])) h

theorem Inv_agentTExpire {s s' : State} {n : Nat} (h : s.Inv) (e : agentTExpire n s = .next s') : s'.Inv := by
  obtain ⟨i, hp, rfl⟩ := agentTExpire_spec e
  refine Inv_setTimer ?_ (Inv_irqPulse (fun _ => timerLineOf_mem) h)
  rw [irqPulse_cfg]
  exact (h.timerOk n).expired (by simp [hp])

theorem Inv_envRxDeliver {s s' : State} {ch : Nat} {bytes : List Byte} (h : s.Inv)
    (e : envRxDeliver ch bytes s = .next s') : s'.Inv := by
  obtain ⟨ho, _, rfl⟩ := envRxDeliver_spec e
  exact Inv_setSerial (fun hch => (h.serialOk hch).deliver _ ho) h

theorem Inv_agentRxPush {s s' : State} {ch k : Nat} (h : s.Inv) (e : agentRxPush ch k s = .next s') : s'.Inv := by
  obtain ⟨he, ⟨_, rfl⟩ | ⟨ha, rfl⟩⟩ := agentRxPush_spec e <;> obtain ⟨ho, _⟩ := rxPushEnabled_iff.1 he
  · exact Inv_irqAssert (fun _ => rxrLine_mem) (Inv_setSerial (fun hch => (h.serialOk hch).pushed ho) h)
  · exact Inv_setSerial (fun hch => (h.serialOk hch).pushed_pending ho ha) h

theorem Inv_agentRxAssert {s s' : State} {ch : Nat} (h : s.Inv) (e : agentRxAssert ch s = .next s') : s'.Inv := by
  obtain ⟨hp, rfl⟩ := agentRxAssert_spec e
  exact Inv_irqAssert (fun _ => rxrLine_mem) (Inv_setSerial (fun hch => (h.serialOk hch).asserted hp) h)

theorem Inv_envPinOverride {s s' : State} {p : Nat} {dir out ext : Option Half} (h : s.Inv)
    (e : envPinOverride p dir out ext s = .next s') : s'.Inv := by
  obtain ⟨_, _, rfl⟩ := envPinOverride_spec e
  exact Inv_setPins h

theorem Inv_envPinOverrideExt {s s' : State} {p token : Nat} (h : s.Inv)
    (e : envPinOverrideExt p token s = .next s') : s'.Inv := by
  obtain ⟨_, _, _, rfl⟩ := envPinOverrideExt_spec e
  exact Inv_congr h rfl rfl rfl rfl rfl rfl rfl rfl

theorem Inv_perform {s s' : State} (a : Action) (h : s.Inv) (e : perform a s = .next s') : s'.Inv := by
  cases a with
  | bus t =>
    rw [perform_bus] at e
    obtain ⟨i, _, hi⟩ := busAccess_spec e
    exact Inv_exec i h hi
  | tCheck n => exact Inv_agentTCheck h e
  | tExpire n => exact Inv_agentTExpire h e
  | rxDeliver ch bytes => exact Inv_envRxDeliver h e
  | rxPush ch k => exact Inv_agentRxPush h e
  | rxAssert ch => exact Inv_agentRxAssert h e
  | pinOverride p dir out ext => exact Inv_envPinOverride h e
  | pinOverrideExt p token => exact Inv_envPinOverrideExt h e
  | irqSample => cases e; exact h

theorem Inv_step {s s' : State} (h : s.Inv) (e : step s = .next s') : s'.Inv := by
  cases hs : s.schedule with
  | nil =>
    rw [step_of_schedule_nil hs] at e
    cases e
    exact h
  | cons a rest =>
    rw [step_of_schedule_cons hs] at e
    exact Inv_perform a (Inv_schedule rest h) e

/-! ## The initial state -/

theorem init_serial_of_lt {c : Cfg} {ch : Nat} (hch : ch < c.numSerial) : (State.init c).serial ch = .reset c := by
  simp [State.serial, State.init, hch]

theorem Inv_init {c : Cfg} (hc : c.WF) : (State.init c).Inv := by
  have ⟨_, _, _, hsizes, _⟩ := hc
  have ⟨hcap, _⟩ := hsizes
  refine ⟨hc, List.length_replicate, List.length_replicate, List.length_replicate, List.length_replicate, ?timers,
    ?serials, FlashOk.reset hsizes, List.Pairwise.nil, nofun, nofun⟩
  case timers =>
    intro t ht
    rw [List.eq_of_mem_replicate ht]
    exact TimerOk.reset c
  case serials =>
    intro ch hch
    rw [init_serial_of_lt (c := c) hch]
    exact SerialOk.reset hcap ch

/-- After reset no byte is unread and no line is up. -/
theorem RxReadyOk_init (c : Cfg) : RxReadyOk (State.init c) := by
  intro ch l hch _
  have hcount : ((State.init c).serial ch).rxCount = 0 := by rw [init_serial_of_lt (c := c) hch]; rfl
  have hline : (State.init c).irqLevel l = false := rfl
  simp [hcount, hline]

theorem cfg0_wf : cfg0.WF := by decide

/-! ## The statements -/

/-- Settles O7: the three clauses are what a step is for each head of the schedule. -/
theorem stepPerformsTheScheduledAction : Obligations.StepPerformsTheScheduledAction := by
  refine ⟨fun s t rest i hs hd => ?_, fun s a rest hs => step_of_schedule_cons hs, fun s hs => step_of_schedule_nil hs⟩
  rw [step_of_schedule_cons hs, perform_bus]
  exact busAccess_of_decode hd

/-- Settles O8: every action keeps the invariant, and a step performs the first scheduled one. -/
theorem stepKeepsInvariant : Obligations.StepKeepsInvariant :=
  fun _ _ h e => Inv_step h e

/-- Settles O10: each unit meets its own invariant after reset. -/
theorem initialStateMeetsInvariants : Obligations.InitialStateMeetsInvariants :=
  ⟨fun c hc => ⟨Inv_init hc, RxReadyOk_init c⟩, cfg0_wf, rfl⟩

end Sys2Proof.Machine
end

section
/-! SUPPORT. What a bus operation, an action and a step can do to the block: said once, for the statements about what
every step keeps. -/

namespace Sys2Proof.Machine

/-! ## The interrupt bridge: lines that may not be wired, and what is not touched -/

theorem irqAssert_ite (b : Bool) (l : Option Nat) (s : State) :
    irqAssert (if b then l else none) s = if b then irqAssert l s else s := by
  cases b <;> rfl

theorem irqPulse_ite (b : Bool) (l label : Option Nat) (s : State) :
    irqPulse (if b then l else none) label s = if b then irqPulse l label s else s := by
  cases b <;> rfl

@[simp] theorem irqAssert_timer (l : Option Nat) (s : State) (n : Nat) : (irqAssert l s).timer n = s.timer n :=
  timer_congr (irqAssert_timers l s) n

@[simp] theorem irqClear_timer (l : Option Nat) (s : State) (n : Nat) : (irqClear l s).timer n = s.timer n :=
  timer_congr (irqClear_timers l s) n

@[simp] theorem irqPulse_timer (l label : Option Nat) (s : State) (n : Nat) :
    (irqPulse l label s).timer n = s.timer n :=
  timer_congr (irqPulse_timers l label s) n

@[simp] theorem irqAssert_serial (l : Option Nat) (s : State) (ch : Nat) : (irqAssert l s).serial ch = s.serial ch :=
  serial_congr (irqAssert_serials l s) (irqAssert_cfg l s) ch

@[simp] theorem irqClear_serial (l : Option Nat) (s : State) (ch : Nat) : (irqClear l s).serial ch = s.serial ch :=
  serial_congr (irqClear_serials l s) (irqClear_cfg l s) ch

@[simp] theorem irqPulse_serial (l label : Option Nat) (s : State) (ch : Nat) :
    (irqPulse l label s).serial ch = s.serial ch :=
  serial_congr (irqPulse_serials l label s) (irqPulse_cfg l label s) ch

@[simp] theorem setSerial_timer (s : State) (ch : Nat) (x : SerialCh) (n : Nat) :
    (s.setSerial ch x).timer n = s.timer n := rfl

/-! ## What a start command and a receive-data read leave alone -/

@[simp] theorem startTimer_cfg (n : Nat) (s : State) : (startTimer n s).cfg = s.cfg := by
  rcases startTimer_spec n s with ⟨_, e⟩ | ⟨_, _, e⟩ | ⟨_, _, e⟩ <;> simp [e]

@[simp] theorem startTimer_serials (n : Nat) (s : State) : (startTimer n s).serials = s.serials := by
  rcases startTimer_spec n s with ⟨_, e⟩ | ⟨_, _, e⟩ | ⟨_, _, e⟩ <;> simp [e]

@[simp] theorem startTimer_flash (n : Nat) (s : State) : (startTimer n s).flash = s.flash := by
  rcases startTimer_spec n s with ⟨_, e⟩ | ⟨_, _, e⟩ | ⟨_, _, e⟩ <;> simp [e]

@[simp] theorem startTimer_hist (n : Nat) (s : State) : (startTimer n s).hist = s.hist := by
  rcases startTimer_spec n s with ⟨_, e⟩ | ⟨_, _, e⟩ | ⟨_, _, e⟩ <;> simp [e]

@[simp] theorem popSerial_timers (ch : Nat) (s : State) : (popSerial ch s).timers = s.timers := by
  rcases popSerial_spec ch s with ⟨_, e⟩ | ⟨_, e⟩ | ⟨_, e⟩ <;> simp [e]

@[simp] theorem popSerial_flash (ch : Nat) (s : State) : (popSerial ch s).flash = s.flash := by
  rcases popSerial_spec ch s with ⟨_, e⟩ | ⟨_, e⟩ | ⟨_, e⟩ <;> simp [e]

/-! ## Bus operations -/

/-- The channel after a `STXD` write: the byte latched, and handed over where the transport is open (R221). -/
def sentSerial (c : Cfg) (ch : Nat) (b : Byte) (x : SerialCh) : SerialCh :=
  if c.transportOk.getD ch false then txOutByte { x with stxd := b } b else { x with stxd := b }

/-- What a bus operation can do to the block, by the unit it writes; the answer to the bus master comes after it. -/
inductive BusEffect (s : State) : Instr → State → Prop
  | unchanged (i : Instr) : BusEffect s i s
  | timerLatch {i : Instr} {n : Nat} {t : TimerCh} (owner : operationOwner i = some (.timer n))
      (running : t.running = (s.timer n).running) : BusEffect s i (s.setTimer n t)
  | start (n : Nat) (w : Width) (v : Word) : BusEffect s (.tctlStart n w v) (startTimer n s)
  | transmit (ch : Nat) (w : Width) (v : Word) : BusEffect s (.stxdW ch w v)
      (irqAssert (if txie s.cfg (s.serial ch).sctl then txeLine s.cfg ch else none)
        (s.setSerial ch (sentSerial s.cfg ch (writeOperand 8 w v) (s.serial ch))))
  | receive (ch : Nat) (w : Width) : BusEffect s (.srxdR ch w) (popSerial ch s)
  | control (ch : Nat) (w : Width) (v : Word) : BusEffect s (.sctlW ch w v)
      (irqPulse (if txie s.cfg (s.serial ch).sctl && !txie s.cfg (writeOperand 16 w v) then txcLine s.cfg ch else none)
        none (s.setSerial ch { s.serial ch with sctl := writeOperand 16 w v }))
  | flashLatch {i : Instr} {f : FlashCtl} (owner : operationOwner i = some .flashc) (mem : f.mem = s.flash.mem)
      (fcmd : f.fcmd = s.flash.fcmd) : BusEffect s i (s.setFlash f)
  | flashClear (w : Width) (v : Word) : BusEffect s (.fcmdClear w v)
      (s.setFlash { s.flash with fcmd := s.cfg.fcmdClear, fstat := fstatCleared s.cfg s.flash.fstat })
  | flashWrite (w : Width) (v : Word) : BusEffect s (.fcmdWrite w v)
      (s.setFlash { issue s.cfg s.cfg.fcmdWrite s.flash with mem := programmed s.cfg s.flash })
  | flashErase (w : Width) (v : Word) : BusEffect s (.fcmdErase w v)
      (s.setFlash { issue s.cfg s.cfg.fcmdErase s.flash with mem := erased s.cfg s.flash })
  | flashBlank (w : Width) (v : Word) : BusEffect s (.fcmdBlank w v)
      (s.setFlash (issue s.cfg s.cfg.fcmdBlank s.flash))
  | cipher {i : Instr} {u : CipherUnit} (owner : operationOwner i = some .cipher) : BusEffect s i (s.setCipher u)
  | portLatch {i : Instr} {p : Nat} {x : GpioPort} (owner : operationOwner i = some .gpio) :
      BusEffect s i (s.setPort p x)
  | portControl {p : Nat} {w : Width} {v : Word} {dir out : Half} {x : GpioPort} :
      BusEffect s (.pctlW p w v) (pinSet p dir out (s.setPort p x))

/-- A stop command latches its request on a running channel only (R187). -/
theorem tctlStop_effect (n : Nat) (w : Width) (v : Word) (s : State) :
    ∃ u, BusEffect s (.tctlStop n w v) u ∧ exec (.tctlStop n w v) s = .next (u.respond .done) := by
  refine ⟨_, ?_, rfl⟩
  split
  · exact .timerLatch rfl rfl
  · exact .unchanged _

/-- Every bus operation completes, with one of the effects on the block and an answer. -/
theorem exec_effect (i : Instr) (s : State) : ∃ u r, BusEffect s i u ∧ exec i s = .next (u.respond r) :=
  match i with
  -- reads that change nothing
  | .tcntR .. | .tmodR .. | .tctlR .. | .stxdR .. | .sctlR .. => ⟨_, _, .unchanged _, rfl⟩
  | .fsahR .. | .fsalR .. | .feahR .. | .fealR .. | .fwdR .. | .fcmdR .. | .flashdR .. => ⟨_, _, .unchanged _, rfl⟩
  | .cmodeR .. | .ckeyR .. | .civR .. | .cdinR .. => ⟨_, _, .unchanged _, rfl⟩
  | .gpioRejectR .. | .pctlR .. | .pinR .. | .pfsR .. => ⟨_, _, .unchanged _, rfl⟩
  | .noregRTimer .. | .noregRSerial .. | .noregRFlashc .. | .noregRCipher .. => ⟨_, _, .unchanged _, rfl⟩
  | .noregRGpio .. | .unmappedR .. => ⟨_, _, .unchanged _, rfl⟩
  -- writes that are ignored
  | .tctlOther .. | .srxdW .. | .fcmdOther .. | .fstatW .. | .flashdW .. | .cdoutW .. => ⟨_, _, .unchanged _, rfl⟩
  | .gpioRejectW .. | .pinW .. => ⟨_, _, .unchanged _, rfl⟩
  | .noregWTimer .. | .noregWSerial .. | .noregWFlashc .. | .noregWCipher .. => ⟨_, _, .unchanged _, rfl⟩
  | .noregWGpio .. | .unmappedW .. => ⟨_, _, .unchanged _, rfl⟩
  -- timer channels
  | .tcntW .. | .tmodW .. => ⟨_, _, .timerLatch rfl (by rfl), rfl⟩
  | .tctlStart n w v => ⟨_, _, .start n w v, rfl⟩
  | .tctlStop n w v =>
    have ⟨u, hu, e⟩ := tctlStop_effect n w v s
    ⟨u, _, hu, e⟩
  -- serial channels
  | .stxdW ch w v => ⟨_, .done, .transmit ch w v, by rw [irqAssert_ite]; rfl⟩
  | .srxdR ch w => ⟨_, _, .receive ch w, rfl⟩
  | .sctlW ch w v => ⟨_, .done, .control ch w v, by rw [irqPulse_ite]; rfl⟩
  -- the flash controller
  | .fsahW .. | .fsalW .. | .feahW .. | .fealW .. | .fwdW .. => ⟨_, _, .flashLatch rfl (by rfl) (by rfl), rfl⟩
  | .fstatR .. => ⟨_, _, .flashLatch rfl (by rfl) (by rfl), rfl⟩
  | .fcmdClear w v => ⟨_, _, .flashClear w v, rfl⟩
  | .fcmdWrite w v => ⟨_, _, .flashWrite w v, rfl⟩
  | .fcmdErase w v => ⟨_, _, .flashErase w v, rfl⟩
  | .fcmdBlank w v => ⟨_, _, .flashBlank w v, rfl⟩
  -- the cipher unit
  | .ccmdW .. | .cmodeW .. | .ckeyW .. | .civW .. | .cdinW .. => ⟨_, _, .cipher rfl, rfl⟩
  | .ccmdR .. | .cdoutR .. => ⟨_, _, .cipher rfl, rfl⟩
  -- ports
  | .pctlW .. => ⟨_, _, .portControl, rfl⟩
  | .pfsW .. => ⟨_, _, .portLatch rfl, rfl⟩

/-! ## Actions and steps -/

theorem pushedSerial_txOut (c : Cfg) (k : Nat) (x : SerialCh) : (pushedSerial c k x).txOut = x.txOut := by
  obtain ⟨_, _, _, _, htxOut⟩ := pushChunk_frame c.rxCap { x with rxIn := x.rxIn.drop k } (x.rxIn.take k)
  exact htxOut

/-- What an action can do: the effect of its bus operation, a step of a timing agent, a step of the receive path of one
channel, with the line it asserts or none, or a move of the collaborator. -/
inductive ActionEffect (s : State) : Action → State → Prop
  | bus {t : Txn} {i : Instr} {u : State} {r : Resp} (operation : (Action.bus t).operation s.cfg = some i)
      (effect : BusEffect s i u) : ActionEffect s (.bus t) (u.respond r)
  | check (n : Nat) : ActionEffect s (.tCheck n) (s.setTimer n (checkedTimer s.cfg (s.timer n)))
  | expire (n us : Nat) : ActionEffect s (.tExpire n)
      ((irqPulse (timerLineOf s.cfg n) (some us) s).setTimer n (expiredTimer s.cfg (s.timer n)))
  | receivePath {a : Action} {ch : Nat} {x : SerialCh} {l : Option Nat} (line : l = none ∨ l = rxrLine s.cfg ch)
      (txOut : x.txOut = (s.serial ch).txOut) : ActionEffect s a (irqAssert l (s.setSerial ch x))
  | collaborator {a : Action} {c : CollabState} : ActionEffect s a { s with collab := c }

theorem perform_effect {s s' : State} {a : Action} (e : perform a s = .next s') : ActionEffect s a s' := by
  cases a with
  | bus t =>
    rw [perform_bus] at e
    obtain ⟨i, hdecode, hexec⟩ := busAccess_spec e
    obtain ⟨u, r, heffect, hnext⟩ := exec_effect i s
    cases hexec.symm.trans hnext
    exact .bus hdecode heffect
  | tCheck n =>
    obtain ⟨_, rfl⟩ := agentTCheck_spec e
    exact .check n
  | tExpire n =>
    obtain ⟨us, _, rfl⟩ := agentTExpire_spec e
    exact .expire n us
  | rxDeliver ch bytes =>
    obtain ⟨_, _, rfl⟩ := envRxDeliver_spec e
    exact .receivePath (.inl rfl) (by rfl)
  | rxPush ch k =>
    obtain ⟨_, ⟨_, rfl⟩ | ⟨_, rfl⟩⟩ := agentRxPush_spec e
    · exact .receivePath (.inr rfl) (pushedSerial_txOut s.cfg k (s.serial ch))
    · exact .receivePath (x := { pushedSerial s.cfg k (s.serial ch) with rxPending := true }) (.inl rfl)
        (pushedSerial_txOut s.cfg k (s.serial ch))
  | rxAssert ch =>
    obtain ⟨_, rfl⟩ := agentRxAssert_spec e
    exact .receivePath (.inr rfl) (by rfl)
  | pinOverride p dir out ext =>
    obtain ⟨_, _, rfl⟩ := envPinOverride_spec e
    exact .collaborator
  | pinOverrideExt p token =>
    obtain ⟨_, _, _, rfl⟩ := envPinOverrideExt_spec e
    exact .collaborator
  | irqSample =>
    cases e
    exact .collaborator (c := s.collab)

/-- A step that is taken performs the first scheduled action, or there is none and the state stays. -/
theorem step_spec {s s' : State} (e : step s = .next s') :
    s' = s ∨ ∃ a rest, s.schedule = a :: rest ∧ perform a { s with schedule := rest } = .next s' := by
  cases hs : s.schedule with
  | nil =>
    rw [step_of_schedule_nil hs] at e
    cases e
    exact .inl rfl
  | cons a rest => exact .inr ⟨a, rest, rfl, step_of_schedule_cons hs ▸ e⟩

end Sys2Proof.Machine
end

section
/-! The `running` flag of a timer channel (R28). -/

namespace Sys2Proof.Machine

theorem timer_setTimer_cases (s : State) (m n : Nat) (t : TimerCh) :
    (s.setTimer m t).timer n = s.timer n ∨ m = n ∧ (s.setTimer m t).timer n = t := by
  rw [timer_setTimer]
  split
  · next h => exact .inr ⟨h.1, rfl⟩
  · exact .inl rfl

/-- A write to channel `m` that leaves its flag alone leaves every channel's flag alone. -/
theorem running_setTimer {s : State} {m : Nat} {t : TimerCh} (h : t.running = (s.timer m).running) (n : Nat) :
    ((s.setTimer m t).timer n).running = (s.timer n).running := by
  obtain e | ⟨rfl, e⟩ := timer_setTimer_cases s m n t <;> rw [e]
  exact h

/-- A start command sets the flag of its own channel or no flag (R186). -/
theorem running_startTimer (s : State) (m n : Nat) :
    ((startTimer m s).timer n).running = (s.timer n).running ∨ m = n ∧ ((startTimer m s).timer n).running = true := by
  rcases startTimer_spec m s with ⟨_, e⟩ | ⟨_, _, e⟩ | ⟨_, _, e⟩ <;> rw [e]
  · exact .inl (running_setTimer (t := { s.timer m with stopReq := false }) rfl n)
  · exact .inl rfl
  · obtain e' | ⟨hm, e'⟩ := timer_setTimer_cases (spawn s).2 m n _ <;> rw [e']
    · exact .inl (congrArg _ (timer_congr (spawn_timers s) n))
    · exact .inr ⟨hm, rfl⟩

/-- Of the bus operations only a start command touches the flag, and it sets it. -/
theorem BusEffect.running {s u : State} {i : Instr} (h : BusEffect s i u) (n : Nat) :
    (u.timer n).running = (s.timer n).running ∨
    (u.timer n).running = true ∧ ∃ w v, i = .tctlStart n w v := by
  cases h with
  | timerLatch _ hr => exact .inl (running_setTimer hr n)
  | start m w v =>
    obtain e | ⟨rfl, e⟩ := running_startTimer s m n
    · exact .inl e
    · exact .inr ⟨e, w, v, rfl⟩
  | transmit | control => exact .inl (by simp)
  | receive ch w => exact .inl (congrArg _ (timer_congr (popSerial_timers ch s) n))
  | portControl => exact .inl (congrArg _ (timer_congr (pinSet_timers ..) n))
  | unchanged | flashLatch | flashClear | flashWrite | flashErase | flashBlank | cipher | portLatch => exact .inl rfl

/-- A step of the timing agent leaves its channel's flag as it is or clears it (R196, R197). -/
theorem checkedTimer_running (c : Cfg) (t : TimerCh) :
    (checkedTimer c t).running = t.running ∨ (checkedTimer c t).running = false := by
  rcases checkedTimer_spec c t with ⟨_, e⟩ | ⟨_, _, e⟩ | ⟨_, _, e⟩ <;> simp [e]

theorem expiredTimer_running (c : Cfg) (t : TimerCh) :
    (expiredTimer c t).running = t.running ∨ (expiredTimer c t).running = false := by
  rcases expiredTimer_spec c t with ⟨_, e⟩ | ⟨_, e⟩ <;> simp [e]

/-- What an agent's write to channel `m` does to the flags, where it keeps or clears the flag there. -/
theorem running_setTimer_agent {s : State} {m : Nat} {t : TimerCh}
    (h : t.running = (s.timer m).running ∨ t.running = false) (n : Nat) :
    ((s.setTimer m t).timer n).running = (s.timer n).running ∨
    m = n ∧ ((s.setTimer m t).timer n).running = false := by
  obtain hkeep | hclear := h
  · exact .inl (running_setTimer hkeep n)
  · obtain e | ⟨hm, e⟩ := timer_setTimer_cases s m n t <;> rw [e]
    · exact .inl rfl
    · exact .inr ⟨hm, hclear⟩

/-- What an action can do to the flag of channel `n`. -/
theorem ActionEffect.running {s s' : State} {a : Action} (h : ActionEffect s a s') (n : Nat) :
    (s'.timer n).running = (s.timer n).running ∨
    (s'.timer n).running = false ∧ (a = .tCheck n ∨ a = .tExpire n) ∨
    (s'.timer n).running = true ∧ ∃ w v, a.operation s.cfg = some (.tctlStart n w v) := by
  cases h with
  | bus hop heffect =>
    obtain hkeep | ⟨hset, w, v, rfl⟩ := heffect.running n
    · exact .inl hkeep
    · exact .inr (.inr ⟨hset, w, v, hop⟩)
  | check m =>
    obtain hkeep | ⟨rfl, hclear⟩ := running_setTimer_agent (checkedTimer_running s.cfg (s.timer m)) n
    · exact .inl hkeep
    · exact .inr (.inl ⟨hclear, .inl rfl⟩)
  | expire m us =>
    have hexpired := expiredTimer_running s.cfg (s.timer m)
    rw [← irqPulse_timer (timerLineOf s.cfg m) (some us) s m] at hexpired
    have hflag := running_setTimer_agent hexpired n
    simp only [irqPulse_timer] at hflag
    obtain hkeep | ⟨rfl, hclear⟩ := hflag
    · exact .inl hkeep
    · exact .inr (.inl ⟨hclear, .inr rfl⟩)
  | receivePath => exact .inl (by simp)
  | collaborator => exact .inl rfl

/-- Settles O17: every action keeps the flag, or is one of the named ones and moves it in its own direction. -/
theorem runningFlagTransitions : Obligations.RunningFlagTransitions := by
  intro s s' n e
  obtain rfl | ⟨a, rest, hs, ha⟩ := step_spec e
  · exact ⟨fun h h' => absurd (h.symm.trans h') (by decide), fun h h' => absurd (h.symm.trans h') (by decide)⟩
  obtain hkeep | ⟨hclear, hagent⟩ | ⟨hset, w, v, hop⟩ := (perform_effect ha).running n
  · exact ⟨fun h h' => absurd (h.symm.trans (hkeep.symm.trans h')) (by decide),
      fun h h' => absurd (h.symm.trans (hkeep.symm.trans h')) (by decide)⟩
  · refine ⟨fun _ _ => ⟨rest, ?_⟩, fun _ h' => absurd (hclear.symm.trans h') (by decide)⟩
    obtain rfl | rfl := hagent
    · exact .inl hs
    · exact .inr hs
  · exact ⟨fun _ h' => absurd (hset.symm.trans h') (by decide), fun _ _ => ⟨a, rest, w, v, hs, hop⟩⟩

end Sys2Proof.Machine
end

section
/-! The backing array and the command register of the flash (R48, R53). -/

namespace Sys2Proof.Machine

/-- The four commands, each with what it does to the array and the command register; nothing else touches either. -/
theorem BusEffect.flash {s u : State} {i : Instr} (h : BusEffect s i u) :
    u.flash.mem = s.flash.mem ∧ u.flash.fcmd = s.flash.fcmd ∨
    ∃ w v,
      i = .fcmdClear w v ∧ u.flash.mem = s.flash.mem ∧ u.flash.fcmd = s.cfg.fcmdClear ∨
      i = .fcmdWrite w v ∧ u.flash.mem = programmed s.cfg s.flash ∧ u.flash.fcmd = s.cfg.fcmdWrite ∨
      i = .fcmdErase w v ∧ u.flash.mem = erased s.cfg s.flash ∧ u.flash.fcmd = s.cfg.fcmdErase ∨
      i = .fcmdBlank w v ∧ u.flash.mem = s.flash.mem ∧ u.flash.fcmd = s.cfg.fcmdBlank := by
  have of_flash (hf : u.flash = s.flash) : u.flash.mem = s.flash.mem ∧ u.flash.fcmd = s.flash.fcmd := by simp [hf]
  cases h with
  | flashLatch _ hmem hfcmd => exact .inl ⟨hmem, hfcmd⟩
  | flashClear w v => exact .inr ⟨w, v, .inl ⟨rfl, rfl, rfl⟩⟩
  | flashWrite w v => exact .inr ⟨w, v, .inr (.inl ⟨rfl, rfl, rfl⟩)⟩
  | flashErase w v => exact .inr ⟨w, v, .inr (.inr (.inl ⟨rfl, rfl, rfl⟩))⟩
  | flashBlank w v => exact .inr ⟨w, v, .inr (.inr (.inr ⟨rfl, rfl, rfl⟩))⟩
  | start | transmit | receive | control | portControl => exact .inl (of_flash (by simp))
  | unchanged | timerLatch | cipher | portLatch => exact .inl (of_flash rfl)

/-- An action changes the flash controller only as the bus operation it performs. -/
theorem ActionEffect.flash {s s' : State} {a : Action} (h : ActionEffect s a s') :
    s'.flash = s.flash ∨ ∃ i u, a.operation s.cfg = some i ∧ BusEffect s i u ∧ s'.flash = u.flash := by
  cases h with
  | bus hop heffect => exact .inr ⟨_, _, hop, heffect, rfl⟩
  | check | expire | receivePath | collaborator => exact .inl (by simp)

/-- Settles O18: only bus operations reach the flash controller, and of these only the commands. -/
theorem flashArrayChangesOnlyByCommands : Obligations.FlashArrayChangesOnlyByCommands := by
  intro s s' e
  obtain rfl | ⟨a, rest, hs, ha⟩ := step_spec e
  · exact ⟨.inl rfl, .inl rfl⟩
  obtain hkeep | ⟨i, u, hop, heffect, hflash⟩ := (perform_effect ha).flash
  · exact ⟨.inl (congrArg FlashCtl.mem hkeep), .inl (congrArg FlashCtl.fcmd hkeep)⟩
  rw [hflash]
  obtain ⟨hmem, hfcmd⟩ | ⟨w, v, ⟨rfl, hmem, hfcmd⟩ | ⟨rfl, _, hfcmd⟩ | ⟨rfl, _, hfcmd⟩ | ⟨rfl, hmem, hfcmd⟩⟩ :=
    heffect.flash
  · exact ⟨.inl hmem, .inl hfcmd⟩
  · exact ⟨.inl hmem, .inr ⟨a, rest, w, v, hs, .inl ⟨hop, hfcmd⟩⟩⟩
  · exact ⟨.inr ⟨a, rest, w, v, hs, .inl hop⟩, .inr ⟨a, rest, w, v, hs, .inr (.inl ⟨hop, hfcmd⟩)⟩⟩
  · exact ⟨.inr ⟨a, rest, w, v, hs, .inr hop⟩, .inr ⟨a, rest, w, v, hs, .inr (.inr (.inl ⟨hop, hfcmd⟩))⟩⟩
  · exact ⟨.inl hmem, .inr ⟨a, rest, w, v, hs, .inr (.inr (.inr ⟨hop, hfcmd⟩))⟩⟩

end Sys2Proof.Machine
end

section
/-! The event history and the transmitted streams are append-only (R47, R71). -/

namespace Sys2Proof.Machine

/-! ## The event history -/

theorem irqAssert_hist (l : Option Nat) (s : State) :
    (irqAssert l s).hist = s.hist ++ (l.map Event.assert).toList := by
  cases l <;> simp

theorem irqClear_hist (l : Option Nat) (s : State) :
    (irqClear l s).hist = s.hist ++ (l.map Event.clear).toList := by
  cases l <;> simp

theorem irqPulse_hist (l label : Option Nat) (s : State) :
    (irqPulse l label s).hist = s.hist ++ (l.map (Event.pulse · label)).toList := by
  cases l <;> simp

theorem popSerial_hist_grows (ch : Nat) (s : State) : ∃ es, (popSerial ch s).hist = s.hist ++ es := by
  rcases popSerial_spec ch s with ⟨_, e⟩ | ⟨_, e⟩ | ⟨_, e⟩ <;> rw [e]
  · exact ⟨[], (List.append_nil _).symm⟩
  · exact ⟨_, irqClear_hist ..⟩
  · exact ⟨[], (List.append_nil _).symm⟩

theorem BusEffect.hist_grows {s u : State} {i : Instr} (h : BusEffect s i u) : ∃ es, u.hist = s.hist ++ es := by
  cases h with
  | transmit => exact ⟨_, irqAssert_hist ..⟩
  | receive ch w => exact popSerial_hist_grows ch s
  | control => exact ⟨_, irqPulse_hist ..⟩
  | start | portControl => exact ⟨[], by simp⟩
  | unchanged | timerLatch | flashLatch | flashClear | flashWrite | flashErase | flashBlank | cipher | portLatch =>
    exact ⟨[], (List.append_nil _).symm⟩

theorem ActionEffect.hist_grows {s s' : State} {a : Action} (h : ActionEffect s a s') :
    ∃ es, s'.hist = s.hist ++ es := by
  cases h with
  | bus _ heffect => exact heffect.hist_grows
  | expire => exact ⟨_, irqPulse_hist ..⟩
  | receivePath => exact ⟨_, irqAssert_hist ..⟩
  | check | collaborator => exact ⟨[], (List.append_nil _).symm⟩

/-! ## The transmitted streams -/

theorem serial_setSerial_cases (s : State) (m ch : Nat) (x : SerialCh) :
    (s.setSerial m x).serial ch = s.serial ch ∨ m = ch ∧ (s.setSerial m x).serial ch = x := by
  rw [serial_setSerial]
  split
  · next h => exact .inr ⟨h.1, rfl⟩
  · exact .inl rfl

/-- A write to channel `m` that leaves its stream alone leaves every channel's stream alone. -/
theorem txOut_setSerial {s : State} {m : Nat} {x : SerialCh} (h : x.txOut = (s.serial m).txOut) (ch : Nat) :
    ((s.setSerial m x).serial ch).txOut = (s.serial ch).txOut := by
  obtain e | ⟨rfl, e⟩ := serial_setSerial_cases s m ch x <;> rw [e]
  exact h

/-- The byte reaches the stream where the transport is open (R221). -/
theorem sentSerial_txOut (c : Cfg) (ch : Nat) (b : Byte) (x : SerialCh) :
    (sentSerial c ch b x).txOut = if c.transportOk.getD ch false then x.txOut ++ [b] else x.txOut := by
  unfold sentSerial
  split <;> rfl

theorem txOut_popSerial (s : State) (m ch : Nat) : ((popSerial m s).serial ch).txOut = (s.serial ch).txOut := by
  have hpop : ((s.setSerial m (popByte s.cfg.rxCap (s.serial m))).serial ch).txOut = (s.serial ch).txOut :=
    txOut_setSerial (by rfl) ch
  rcases popSerial_spec m s with ⟨_, e⟩ | ⟨_, e⟩ | ⟨_, e⟩ <;> simp [e, hpop]

/-- Of the bus operations only a `STXD` write adds to a stream: to that of its own channel, one byte. -/
theorem BusEffect.txOut {s u : State} {i : Instr} (h : BusEffect s i u) (ch : Nat) :
    (u.serial ch).txOut = (s.serial ch).txOut ∨
    ∃ b w v, (u.serial ch).txOut = (s.serial ch).txOut ++ [b] ∧ i = .stxdW ch w v := by
  cases h with
  | transmit m w v =>
    rw [irqAssert_serial]
    obtain e | ⟨rfl, e⟩ := serial_setSerial_cases s m ch (sentSerial s.cfg m (writeOperand 8 w v) (s.serial m))
    · exact .inl (congrArg _ e)
    rw [e, sentSerial_txOut]
    split
    · exact .inr ⟨_, w, v, rfl, rfl⟩
    · exact .inl rfl
  | receive m w => exact .inl (txOut_popSerial s m ch)
  | control m w v =>
    rw [irqPulse_serial]
    exact .inl (txOut_setSerial (by rfl) ch)
  | start | portControl => exact .inl (congrArg _ (serial_congr (by simp) (by simp) ch))
  | unchanged | timerLatch | flashLatch | flashClear | flashWrite | flashErase | flashBlank | cipher | portLatch =>
    exact .inl rfl

/-- Of all actions only a `STXD` write adds to a stream. -/
theorem ActionEffect.txOut {s s' : State} {a : Action} (h : ActionEffect s a s') (ch : Nat) :
    (s'.serial ch).txOut = (s.serial ch).txOut ∨
    ∃ b w v, (s'.serial ch).txOut = (s.serial ch).txOut ++ [b] ∧ a.operation s.cfg = some (.stxdW ch w v) := by
  cases h with
  | bus hop heffect =>
    obtain hkeep | ⟨b, w, v, hadd, rfl⟩ := heffect.txOut ch
    · exact .inl hkeep
    · exact .inr ⟨b, w, v, hadd, hop⟩
  | expire => exact .inl (congrArg _ (irqPulse_serial ..))
  | receivePath _ htxOut =>
    rw [irqAssert_serial]
    exact .inl (txOut_setSerial htxOut ch)
  | check | collaborator => exact .inl rfl

/-- Settles O19: every action extends the history, and keeps each stream or is the `STXD` write that extends it. -/
theorem streamsOnlyGrow : Obligations.StreamsOnlyGrow := by
  intro s s' e
  obtain rfl | ⟨a, rest, hs, ha⟩ := step_spec e
  · exact ⟨⟨[], (List.append_nil _).symm⟩, fun _ => .inl rfl⟩
  refine ⟨(perform_effect ha).hist_grows, fun ch => ?_⟩
  obtain hkeep | ⟨b, w, v, hadd, hop⟩ := (perform_effect ha).txOut ch
  · exact .inl hkeep
  · exact .inr ⟨b, a, rest, w, v, hadd, hs, hop⟩

end Sys2Proof.Machine
end

section
/-! The receive path refines a queue that keeps its last `RX_CAP` bytes (R38, R223, R230, R236). -/

namespace Sys2Proof.Machine

theorem State.Inv.serial_setSerial {s : State} (h : s.Inv) {ch : Nat} (hch : ch < s.cfg.numSerial) (x : SerialCh) :
    (s.setSerial ch x).serial ch = x := by
  obtain ⟨_, _, hserials, _⟩ := h
  exact serial_setSerial_self s ch x (hserials ▸ hch)

theorem unread_pushedSerial {c : Cfg} {ch : Nat} {x : SerialCh} (h : SerialOk c ch x) (k : Nat) :
    unread c.rxCap (pushedSerial c k x) = lastOnes c.rxCap (unread c.rxCap x ++ x.rxIn.take k) :=
  unread_pushChunk _ (x := { x with rxIn := x.rxIn.drop k }) h.ring

theorem unread_eq_nil {cap : Nat} {x : SerialCh} (h : x.rxCount = 0) : unread cap x = [] :=
  List.eq_nil_of_length_eq_zero ((unread_length cap x).trans h)

/-- A read of the receive-data register takes the oldest byte, where there is one. -/
theorem unread_popSerial {s : State} {ch : Nat} (h : s.Inv) (hch : ch < s.cfg.numSerial) :
    unread s.cfg.rxCap ((popSerial ch s).serial ch) = (unread s.cfg.rxCap (s.serial ch)).tail := by
  rcases popSerial_spec ch s with ⟨hempty, e⟩ | ⟨_, e⟩ | ⟨_, e⟩ <;> rw [e]
  · rw [unread_eq_nil hempty, List.tail_nil]
  · rw [irqClear_serial, h.serial_setSerial hch, unread_popByte]
  · rw [h.serial_setSerial hch, unread_popByte]

/-- What a read returns is the oldest byte, or 0 (R223). -/
theorem rxValue_eq_headD {cap : Nat} {x : SerialCh} (h : RingOk cap x) : rxValue x = (unread cap x).headD 0 := by
  unfold rxValue
  split
  · next hempty => rw [unread_eq_nil hempty, List.headD_nil]
  · next hx => rw [List.headD_eq_head?_getD, frontByte_eq_head h hx, Option.getD_some]

/-- A byte fits every access width, so a read returns it whole (R88). -/
theorem readValue_byte (w : Width) (b : Byte) : readValue w (b.setWidth 32) = b.setWidth 32 := by
  refine canonicalData_of_fits ?_
  have hb := b.isLt
  cases w <;> simp [Width.fits, Width.bytes] <;> omega

/-- Settles O37: the push by the law of a chunk, the read by the laws of a pop and of the front byte. -/
theorem ringBufferRefinesBoundedQueue : Obligations.RingBufferRefinesBoundedQueue := by
  intro s s' ch h hch
  have hok := h.serialOk hch
  refine ⟨fun k e => ?_, fun w e => ?_⟩
  · rw [← unread_pushedSerial hok k]
    obtain ⟨_, ⟨_, rfl⟩ | ⟨_, rfl⟩⟩ := agentRxPush_spec e
    · rw [irqAssert_serial, h.serial_setSerial hch]
    · rw [h.serial_setSerial hch]
      exact unread_congr rfl rfl rfl
  · cases e
    refine ⟨unread_popSerial h hch, ?_⟩
    rw [respond_resp, readValue_byte, rxValue_eq_headD hok.ring]

end Sys2Proof.Machine
end

section
/-! The state after reset (R76, R430). -/

namespace Sys2Proof.Machine

theorem init_timers_getElem? {c : Cfg} {n : Nat} (hn : n < c.numTimer) : (State.init c).timers[n]? = some .reset :=
  List.getElem?_replicate_of_lt hn

theorem init_serials_getElem? {c : Cfg} {ch : Nat} (hch : ch < c.numSerial) :
    (State.init c).serials[ch]? = some (.reset c) :=
  List.getElem?_replicate_of_lt hch

theorem init_ports_getElem? {c : Cfg} {p : Nat} (hp : p < c.numPorts) : (State.init c).ports[p]? = some .reset :=
  List.getElem?_replicate_of_lt hp

theorem init_pins_getElem? {c : Cfg} {p : Nat} (hp : p < c.numPorts) : (State.init c).collab.pins[p]? = some .reset :=
  List.getElem?_replicate_of_lt hp

theorem SerialCh.reset_rxBuf_getElem? {c : Cfg} {k : Nat} (hk : k < c.rxCap) :
    (SerialCh.reset c).rxBuf[k]? = some 0x00 :=
  List.getElem?_replicate_of_lt hk

theorem GpioPort.reset_pfs (i : Fin 16) : GpioPort.reset.pfs[i.val] = 0x00 :=
  Vector.getElem_replicate i.isLt

/-- The default configuration's array is empty, so every byte is the erased one. -/
theorem reset_flashByte (o : Nat) : flashByte State.reset o = 0x00 := by
  have hmem : State.reset.flash.mem = [] := rfl
  rw [flashByte, hmem, Memory.read_nil]
  exact ite_self _

/-- Settles O11: each channel and port is the one after reset, and every other field is the named value. -/
theorem resetTable : Obligations.ResetTable := by
  refine ⟨fun c => ⟨fun n => init_timers_getElem?, fun ch hch => ?serials, rfl, rfl, rfl, rfl, rfl, rfl, rfl,
    fun p hp => ?ports, fun p => init_pins_getElem?, fun _ => rfl, rfl⟩, reset_flashByte, rfl⟩
  case serials =>
    exact ⟨_, init_serials_getElem? hch, rfl, rfl, fun k => SerialCh.reset_rxBuf_getElem?, rfl, rfl, rfl, rfl, rfl, rfl⟩
  case ports => exact ⟨_, init_ports_getElem? hp, rfl, rfl, GpioPort.reset_pfs⟩

end Sys2Proof.Machine
end

section
/-! What no step changes, and what the agents and the environment leave alone (R15, R20, R105). -/

namespace Sys2Proof.Machine

@[simp] theorem startTimer_schedule (n : Nat) (s : State) : (startTimer n s).schedule = s.schedule := by
  rcases startTimer_spec n s with ⟨_, e⟩ | ⟨_, _, e⟩ | ⟨_, _, e⟩ <;> simp [e]

@[simp] theorem popSerial_cfg (ch : Nat) (s : State) : (popSerial ch s).cfg = s.cfg := by
  rcases popSerial_spec ch s with ⟨_, e⟩ | ⟨_, e⟩ | ⟨_, e⟩ <;> simp [e]

@[simp] theorem popSerial_schedule (ch : Nat) (s : State) : (popSerial ch s).schedule = s.schedule := by
  rcases popSerial_spec ch s with ⟨_, e⟩ | ⟨_, e⟩ | ⟨_, e⟩ <;> simp [e]

/-- No bus operation writes the configuration or the schedule: each writes its own unit and the interrupt lines. -/
theorem BusEffect.cfg_schedule {s u : State} {i : Instr} (h : BusEffect s i u) :
    u.cfg = s.cfg ∧ u.schedule = s.schedule := by
  cases h with
  | start | transmit | receive | control | portControl => exact ⟨by simp, by simp⟩
  | unchanged | timerLatch | flashLatch | flashClear | flashWrite | flashErase | flashBlank | cipher | portLatch =>
    exact ⟨rfl, rfl⟩

theorem ActionEffect.cfg_schedule {s s' : State} {a : Action} (h : ActionEffect s a s') :
    s'.cfg = s.cfg ∧ s'.schedule = s.schedule := by
  cases h with
  | bus _ heffect => exact heffect.cfg_schedule
  | check | collaborator => exact ⟨rfl, rfl⟩
  | expire | receivePath => exact ⟨by simp, by simp⟩

/-- An action that is no bus access writes one timer channel, one serial channel or the collaborator, and the interrupt
lines (R105). -/
theorem ActionEffect.agent_frame {s s' : State} {a : Action} (h : ActionEffect s a s') (ha : ∀ t, a ≠ .bus t) :
    s'.flash = s.flash ∧ s'.cipher = s.cipher ∧ s'.ports = s.ports ∧ s'.resp = s.resp := by
  cases h with
  | @bus t => exact absurd rfl (ha t)
  | check | collaborator => exact ⟨rfl, rfl, rfl, rfl⟩
  | expire | receivePath => exact ⟨by simp, by simp, by simp, by simp⟩

/-- Settles O21: with nothing scheduled the state stays; else the first action acts on the state without it. -/
theorem agentsLeaveFlashCipherPortsAlone : Obligations.AgentsLeaveFlashCipherPortsAlone := by
  intro s s' e
  cases hs : s.schedule with
  | nil =>
    rw [step_of_schedule_nil hs] at e
    cases e
    exact ⟨rfl, hs, fun _ => ⟨rfl, rfl, rfl, rfl⟩⟩
  | cons a rest =>
    rw [step_of_schedule_cons hs] at e
    have heffect := perform_effect e
    obtain ⟨hcfg, hschedule⟩ := heffect.cfg_schedule
    exact ⟨hcfg, hschedule, fun hagent => heffect.agent_frame fun t ht => hagent t rest (congrArg (· :: rest) ht)⟩

end Sys2Proof.Machine
end

section
/-! Which transaction words are refused (R82, R121, R123). -/

namespace Sys2Proof

theorem widthOfSize_eq_none_iff (size : Nat) : widthOfSize size = none ↔ 3 ≤ size := by
  match size with
  | 0 | 1 | 2 => simp [widthOfSize]
  | n + 3 => simp [widthOfSize]

/-- A word has no width where its `size` code stands for none of `WIDTHS` (R82, R121). -/
theorem txnWidth_eq_none_iff (c : Cfg) (t : Txn) :
    txnWidth c t = none ↔ ∀ w ∈ c.widths, widthOfSize (txnSize c t) ≠ some w := by
  unfold txnWidth
  cases widthOfSize (txnSize c t) with
  | none => simp
  | some v =>
    by_cases hv : v ∈ c.widths
    · simp [hv]
    · simpa [hv] using fun w hw (e : v = w) => hv (e ▸ hw)

/-- The width is all that can keep a transaction word from being an operation (R82, R123). -/
theorem decode_eq_none_iff {c : Cfg} {t : Txn} (ht : t < 2 ^ c.txnBits) :
    decode c t = none ↔ txnWidth c t = none := by
  rw [decode, Option.map_eq_none_iff, accessOfTxn, if_pos ht]
  cases txnWidth c t <;> simp

/-- At CFG0 every width that has a code is one of `WIDTHS`. -/
theorem mem_cfg0_widths (w : Width) : w ∈ cfg0.widths := by cases w <;> decide

theorem txnBits_cfg0 : cfg0.txnBits = 67 := rfl

/-- At CFG0 only the `size` code 3 has no width (R121). -/
theorem decode_cfg0_eq_none_iff (t : BitVec 67) : decode cfg0 t.toNat = none ↔ t.extractLsb' 64 2 = 3 := by
  obtain ⟨hsize, _⟩ := txn_fields_cfg0 t
  have ht : t.toNat < 2 ^ cfg0.txnBits := by
    rw [txnBits_cfg0]
    exact t.isLt
  calc decode cfg0 t.toNat = none
    _ ↔ ∀ w ∈ cfg0.widths, widthOfSize (txnSize cfg0 t.toNat) ≠ some w :=
      (decode_eq_none_iff ht).trans (txnWidth_eq_none_iff cfg0 _)
    _ ↔ widthOfSize (t.extractLsb' 64 2).toNat = none := by
      simp only [mem_cfg0_widths, hsize, forall_const, Option.eq_none_iff_forall_ne_some]
    _ ↔ 3 ≤ (t.extractLsb' 64 2).toNat := widthOfSize_eq_none_iff _
    _ ↔ t.extractLsb' 64 2 = 3 := by bv_omega

end Sys2Proof

namespace Sys2Proof.Machine

theorem busAccess_of_decode_none {s : State} {t : Txn} (h : decode s.cfg t = none) :
    busAccess t s = .refused .notAnAccess := by
  rw [busAccess, h]

/-- Settles O3: a word is refused for want of a width only, and the step hands that refusal on. -/
theorem onlyWidthsOutsideTheListAreRefused : Obligations.OnlyWidthsOutsideTheListAreRefused := by
  refine ⟨decode_cfg0_eq_none_iff, fun c t ht => ?_⟩
  have hrefused := (decode_eq_none_iff ht).trans (txnWidth_eq_none_iff c t)
  refine ⟨hrefused, fun hsize => hrefused.2 fun w _ => ?_, fun s rest hc hs hd => ?_⟩
  · rw [hsize, (widthOfSize_eq_none_iff 3).2 (le_refl 3)]
    exact nofun
  · rw [step_of_schedule_cons hs, perform_bus]
    exact busAccess_of_decode_none (hc ▸ hd)

end Sys2Proof.Machine
end

section
/-! SUPPORT. Which addresses are the registers, the holes and the slots of each unit's window, and the unit that decodes
them (R123 to R129). -/

namespace Sys2Proof

/-! ## Addresses of a window, and its holes -/

theorem Window.covers_iff_exists {w : Window} {a : Nat} :
    w.covers a = true ↔ ∃ off, off < w.size ∧ a = w.base + off := by
  rw [Window.covers_iff]
  constructor
  · rintro ⟨hlo, hhi⟩
    exact ⟨a - w.base, by omega, by omega⟩
  · rintro ⟨off, hoff, rfl⟩
    omega

theorem isHole_iff {c : Cfg} {kind : Owner → Bool} {offsets : List Nat} {addr : Nat} :
    c.isHole kind offsets addr = true ↔
      ∃ w ∈ c.windows, kind w.owner = true ∧ ∃ off, off < w.size ∧ addr = w.base + off ∧ off ∉ offsets := by
  simp only [Cfg.isHole, List.any_eq_true, Bool.and_eq_true, Bool.not_eq_true', Window.covers_iff_exists]
  constructor
  · rintro ⟨w, hw, ⟨⟨off, hoff, rfl⟩, hkind⟩, hfree⟩
    rw [Nat.add_sub_cancel_left] at hfree
    exact ⟨w, hw, hkind, off, hoff, rfl, by simpa using hfree⟩
  · rintro ⟨w, hw, hkind, off, hoff, rfl, hfree⟩
    refine ⟨w, hw, ⟨⟨off, hoff, rfl⟩, hkind⟩, ?_⟩
    rw [Nat.add_sub_cancel_left]
    simpa using hfree

theorem timerHole_iff {c : Cfg} {addr : Nat} : c.timerHole addr = true ↔
    ∃ n < c.numTimer, ∃ off < c.timerStride, addr = timerAddr c n off ∧
      off ≠ c.tcntOff ∧ off ≠ c.tmodOff ∧ off ≠ c.tctlOff := by
  rw [Cfg.timerHole, isHole_iff]
  simp [mem_windows, or_and_right, exists_or, timerAddr]

theorem serialHole_iff {c : Cfg} {addr : Nat} : c.serialHole addr = true ↔
    ∃ ch < c.numSerial, ∃ off < c.serialStride, addr = serialAddr c ch off ∧
      off ≠ c.stxdOff ∧ off ≠ c.srxdOff ∧ off ≠ c.sctlOff := by
  rw [Cfg.serialHole, isHole_iff]
  simp [mem_windows, or_and_right, exists_or, serialAddr]

theorem flashcHole_iff {c : Cfg} {addr : Nat} : c.flashcHole addr = true ↔
    ∃ off < c.flashcSize, addr = c.flashcBase + off ∧ off ≠ c.fcmdOff ∧ off ≠ c.fstatOff ∧ off ≠ c.fsahOff ∧
      off ≠ c.fsalOff ∧ off ≠ c.feahOff ∧ off ≠ c.fealOff ∧ off ≠ c.fwdOff := by
  rw [Cfg.flashcHole, isHole_iff]
  simp [mem_windows, or_and_right, exists_or]

theorem cipherHole_iff {c : Cfg} {addr : Nat} : c.cipherHole addr = true ↔
    c.cipherUnit = true ∧ ∃ off < c.cipherSize, addr = c.cipherBase + off ∧ off ≠ c.ccmdOff ∧ off ≠ c.cmodeOff ∧
      off ≠ c.ckeyOff ∧ off ≠ c.civOff ∧ off ≠ c.cdinOff ∧ off ≠ c.cdoutOff := by
  rw [Cfg.cipherHole, isHole_iff]
  simp [mem_windows, or_and_right, exists_or, and_assoc]

theorem isUnmapped_iff {c : Cfg} {addr : Nat} :
    c.isUnmapped addr = true ↔ addr < 2 ^ c.addrBits ∧ windowOf c addr = none := by
  simp [Cfg.isUnmapped, windowOf_none]

theorem inGpio_iff {c : Cfg} {addr : Nat} :
    c.inGpio addr = true ↔ ∃ rel, rel < c.gpioSlots * c.gpioStride ∧ addr = c.gpioBase + rel := by
  rw [← Window.covers_iff_exists (w := ⟨c.gpioBase, c.gpioSlots * c.gpioStride, .gpio⟩)]
  rfl

theorem gpioOffFree_iff {c : Cfg} {off : Nat} : c.gpioOffFree off = true ↔
    off ≠ c.pctlOff ∧ off ≠ c.pinOff ∧ ¬ (c.pfsOff ≤ off ∧ off < c.pfsOff + 16) := by
  simp only [Cfg.gpioOffFree, Bool.not_eq_true', Bool.or_eq_false_iff, Bool.and_eq_false_iff, decide_eq_false_iff_not]
  tauto

theorem gpioHole_iff {c : Cfg} {addr : Nat} : c.gpioHole addr = true ↔ c.inGpio addr = true ∧
    c.gpioSlot addr < c.numPorts ∧ c.gpioOff addr ≠ c.pctlOff ∧ c.gpioOff addr ≠ c.pinOff ∧
      ¬ (c.pfsOff ≤ c.gpioOff addr ∧ c.gpioOff addr < c.pfsOff + 16) := by
  simp only [Cfg.gpioHole, Bool.and_eq_true, decide_eq_true_eq, gpioOffFree_iff, and_assoc]

theorem gpioRejected_iff {c : Cfg} {addr : Nat} :
    c.gpioRejected addr = true ↔ c.inGpio addr = true ∧ c.numPorts ≤ c.gpioSlot addr := by
  simp only [Cfg.gpioRejected, Bool.and_eq_true, decide_eq_true_eq]

/-! ## Slots of the GPIO window -/

/-- An offset inside a slot leaves slot and offset to be read off the address (R351). -/
theorem gpioAddr_slot_off (c : Cfg) {p off : Nat} (hoff : off < c.gpioStride) :
    c.gpioSlot (gpioAddr c p off) = p ∧ c.gpioOff (gpioAddr c p off) = off := by
  have hrel : gpioAddr c p off - c.gpioBase = c.gpioStride * p + off := by
    rw [gpioAddr, Nat.add_assoc, Nat.add_sub_cancel_left, Nat.mul_comm]
  have hpos : 0 < c.gpioStride := by omega
  rw [Cfg.gpioSlot, Cfg.gpioOff, hrel]
  exact ⟨by rw [Nat.mul_add_div hpos, Nat.div_eq_of_lt hoff, Nat.add_zero],
    by rw [Nat.mul_add_mod, Nat.mod_eq_of_lt hoff]⟩

/-- An address of the GPIO window is at its offset in its slot (R351). -/
theorem gpioAddr_of_inGpio {c : Cfg} {addr : Nat} (h : c.inGpio addr = true) :
    gpioAddr c (c.gpioSlot addr) (c.gpioOff addr) = addr := by
  obtain ⟨rel, _, rfl⟩ := inGpio_iff.1 h
  rw [gpioAddr, Cfg.gpioSlot, Cfg.gpioOff, Nat.add_sub_cancel_left, Nat.add_assoc, Nat.div_add_mod']

theorem inGpio_gpioAddr {c : Cfg} {p off : Nat} (hp : p < c.gpioSlots) (hoff : off < c.gpioStride) :
    c.inGpio (gpioAddr c p off) = true := by
  have hslots : (p + 1) * c.gpioStride ≤ c.gpioSlots * c.gpioStride := Nat.mul_le_mul_right _ hp
  rw [Nat.add_mul] at hslots
  exact inGpio_iff.2 ⟨p * c.gpioStride + off, by omega, Nat.add_assoc ..⟩

/-! ## The unit that decodes an address -/

section
variable {c : Cfg} {a : Access}

theorem decodeAccess_timer {n off : Nat} (hc : c.WF) (hn : n < c.numTimer) (hoff : off < c.timerStride)
    (ha : a.addr = timerAddr c n off) : decodeAccess c a = decodeTimer c n off a :=
  decodeAccess_of_window hc (mem_windows.2 (.inl ⟨n, hn, rfl⟩)) hoff ha

theorem decodeAccess_serial {ch off : Nat} (hc : c.WF) (hch : ch < c.numSerial) (hoff : off < c.serialStride)
    (ha : a.addr = serialAddr c ch off) : decodeAccess c a = decodeSerial c ch off a :=
  decodeAccess_of_window hc (mem_windows.2 (.inr (.inl ⟨ch, hch, rfl⟩))) hoff ha

theorem decodeAccess_flashc {off : Nat} (hc : c.WF) (hoff : off < c.flashcSize) (ha : a.addr = c.flashcBase + off) :
    decodeAccess c a = decodeFlashc c off a :=
  decodeAccess_of_window hc (mem_windows.2 (.inr (.inr (.inl rfl)))) hoff ha

theorem decodeAccess_cipher {off : Nat} (hc : c.WF) (hu : c.cipherUnit = true) (hoff : off < c.cipherSize)
    (ha : a.addr = c.cipherBase + off) : decodeAccess c a = decodeCipher c off a :=
  decodeAccess_of_window hc (mem_windows.2 (.inr (.inr (.inr (.inl ⟨hu, rfl⟩))))) hoff ha

theorem decodeAccess_flashd {off : Nat} (hc : c.WF) (hoff : off < c.flashSize) (ha : a.addr = c.flashdBase + off) :
    decodeAccess c a = decodeFlashd off a :=
  decodeAccess_of_window hc (mem_windows.2 (.inr (.inr (.inr (.inr (.inr rfl)))))) hoff ha

theorem decodeAccess_gpio (hc : c.WF) (h : c.inGpio a.addr = true) :
    decodeAccess c a = decodeGpio c (a.addr - c.gpioBase) a := by
  obtain ⟨rel, hrel, ha⟩ := inGpio_iff.1 h
  rw [ha, Nat.add_sub_cancel_left]
  exact decodeAccess_of_window hc (mem_windows.2 (.inr (.inr (.inr (.inr (.inl rfl)))))) hrel ha

theorem decodeAccess_unmapped (h : windowOf c a.addr = none) :
    decodeAccess c a = if a.write then .unmappedW a.addr a.width a.data else .unmappedR a.addr a.width := by
  rw [decodeAccess, h]

end

end Sys2Proof
end

section
/-! Every access decodes to a well-formed operation that is the access (R123, R131). -/

namespace Sys2Proof

@[simp] theorem readAccess_write (w : Width) (addr : Nat) : (readAccess w addr).write = false := rfl
@[simp] theorem readAccess_width (w : Width) (addr : Nat) : (readAccess w addr).width = w := rfl
@[simp] theorem readAccess_addr (w : Width) (addr : Nat) : (readAccess w addr).addr = addr := rfl
@[simp] theorem writeAccess_write (w : Width) (addr : Nat) (v : Word) : (writeAccess w addr v).write = true := rfl
@[simp] theorem writeAccess_width (w : Width) (addr : Nat) (v : Word) : (writeAccess w addr v).width = w := rfl
@[simp] theorem writeAccess_addr (w : Width) (addr : Nat) (v : Word) : (writeAccess w addr v).addr = addr := rfl
@[simp] theorem writeAccess_data (w : Width) (addr : Nat) (v : Word) : (writeAccess w addr v).data = v := rfl

/-- The data are canonical, and 0 in a read (R80, R122). -/
def Access.Canonical (a : Access) : Prop := a.data = if a.write then canonicalData a.width a.data else 0

/-- A canonical access is a read or a write of a value that fits its width. -/
theorem Access.Canonical.read_or_write {a : Access} (h : a.Canonical) :
    (∃ w addr, a = readAccess w addr) ∨ ∃ w addr v, w.fits v = true ∧ a = writeAccess w addr v := by
  obtain ⟨write, w, addr, v⟩ := a
  cases write with
  | false =>
    have hv : v = 0 := h
    exact .inl ⟨w, addr, by rw [hv]; rfl⟩
  | true =>
    have hv : v = canonicalData w v := h
    exact .inr ⟨w, addr, v, hv ▸ fits_canonicalData w v, rfl⟩

/-- The access of a transaction word is canonical, of a listed width, at an address of the address space. -/
theorem canonical_of_accessOfTxn {c : Cfg} {t : Txn} {a : Access} (h : accessOfTxn c t = some a) :
    a.Canonical ∧ a.width ∈ c.widths ∧ a.addr < 2 ^ c.addrBits := by
  obtain ⟨_, _, hwidth, _, haddr, _, hdata⟩ := accessOfTxn_some h
  refine ⟨?_, hwidth, haddr⟩
  rw [Access.Canonical, hdata]
  cases a.write
  · rfl
  · exact (canonicalData_idem _ _).symm

/-- The operation has operands in order, the width of the access, and is the access (R123, R131). -/
def Instr.IsAccess (c : Cfg) (i : Instr) (a : Access) : Prop :=
  i.wf c = true ∧ i.width = a.width ∧ i.access c = a

section
variable {c : Cfg} {a : Access}

/-- Each value of the control register has its operation (R134). -/
theorem decodeTctl_isAccess {n : Nat} {w : Width} {v : Word} (hn : n < c.numTimer) (hfits : w.fits v = true) :
    (decodeTctl c n w v).IsAccess c (writeAccess w (timerAddr c n c.tctlOff) v) := by
  simp only [decodeTctl]
  split_ifs
  all_goals simp [Instr.IsAccess, Instr.wf, Instr.width, Instr.access, writeAccess, commandCode, *]

/-- Each value of the command register has its operation (R134). -/
theorem decodeFcmd_isAccess {w : Width} {v : Word} (hfits : w.fits v = true) :
    (decodeFcmd c w v).IsAccess c (writeAccess w (c.flashcBase + c.fcmdOff) v) := by
  simp only [decodeFcmd]
  split_ifs
  all_goals simp [Instr.IsAccess, Instr.wf, Instr.width, Instr.access, writeAccess, commandCode, *]

/-- An offset of a channel's window is one of the three registers or a hole; the other units are alike. -/
theorem decodeTimer_isAccess {n off : Nat} (ha : a.Canonical) (hn : n < c.numTimer) (hoff : off < c.timerStride)
    (haddr : a.addr = timerAddr c n off) : (decodeTimer c n off a).IsAccess c a := by
  have hhole (h1 : off ≠ c.tcntOff) (h2 : off ≠ c.tmodOff) (h3 : off ≠ c.tctlOff) : c.timerHole a.addr = true :=
    timerHole_iff.2 ⟨n, hn, off, hoff, haddr, h1, h2, h3⟩
  obtain ⟨w, addr, rfl⟩ | ⟨w, addr, v, hfits, rfl⟩ := ha.read_or_write <;> obtain rfl : addr = _ := haddr
  · simp only [decodeTimer, readAccess_write, Bool.false_eq_true, if_false]
    split_ifs <;> simp_all [Instr.IsAccess, Instr.wf, Instr.width, Instr.access]
  · simp only [decodeTimer, writeAccess_write, if_true]
    split_ifs with hcnt hmod hctl
    on_goal 3 => exact hctl ▸ decodeTctl_isAccess hn hfits
    all_goals simp_all [Instr.IsAccess, Instr.wf, Instr.width, Instr.access]

theorem decodeSerial_isAccess {ch off : Nat} (ha : a.Canonical) (hch : ch < c.numSerial) (hoff : off < c.serialStride)
    (haddr : a.addr = serialAddr c ch off) : (decodeSerial c ch off a).IsAccess c a := by
  have hhole (h1 : off ≠ c.stxdOff) (h2 : off ≠ c.srxdOff) (h3 : off ≠ c.sctlOff) : c.serialHole a.addr = true :=
    serialHole_iff.2 ⟨ch, hch, off, hoff, haddr, h1, h2, h3⟩
  obtain ⟨w, addr, rfl⟩ | ⟨w, addr, v, hfits, rfl⟩ := ha.read_or_write <;> obtain rfl : addr = _ := haddr
  · simp only [decodeSerial, readAccess_write, Bool.false_eq_true, if_false]
    split_ifs <;> simp_all [Instr.IsAccess, Instr.wf, Instr.width, Instr.access]
  · simp only [decodeSerial, writeAccess_write, if_true]
    split_ifs <;> simp_all [Instr.IsAccess, Instr.wf, Instr.width, Instr.access]

theorem decodeFlashc_isAccess {off : Nat} (ha : a.Canonical) (hoff : off < c.flashcSize)
    (haddr : a.addr = c.flashcBase + off) : (decodeFlashc c off a).IsAccess c a := by
  have hhole (h1 : off ≠ c.fcmdOff) (h2 : off ≠ c.fstatOff) (h3 : off ≠ c.fsahOff) (h4 : off ≠ c.fsalOff)
      (h5 : off ≠ c.feahOff) (h6 : off ≠ c.fealOff) (h7 : off ≠ c.fwdOff) : c.flashcHole a.addr = true :=
    flashcHole_iff.2 ⟨off, hoff, haddr, h1, h2, h3, h4, h5, h6, h7⟩
  obtain ⟨w, addr, rfl⟩ | ⟨w, addr, v, hfits, rfl⟩ := ha.read_or_write <;> obtain rfl : addr = _ := haddr
  · simp only [decodeFlashc, readAccess_write, Bool.false_eq_true, if_false]
    split_ifs <;> simp_all [Instr.IsAccess, Instr.wf, Instr.width, Instr.access]
  · simp only [decodeFlashc, writeAccess_write, if_true]
    split_ifs with hcmd
    on_goal 1 => exact hcmd ▸ decodeFcmd_isAccess hfits
    all_goals simp_all [Instr.IsAccess, Instr.wf, Instr.width, Instr.access]

theorem decodeCipher_isAccess {off : Nat} (ha : a.Canonical) (hu : c.cipherUnit = true) (hoff : off < c.cipherSize)
    (haddr : a.addr = c.cipherBase + off) : (decodeCipher c off a).IsAccess c a := by
  have hhole (h1 : off ≠ c.ccmdOff) (h2 : off ≠ c.cmodeOff) (h3 : off ≠ c.ckeyOff) (h4 : off ≠ c.civOff)
      (h5 : off ≠ c.cdinOff) (h6 : off ≠ c.cdoutOff) : c.cipherHole a.addr = true :=
    cipherHole_iff.2 ⟨hu, off, hoff, haddr, h1, h2, h3, h4, h5, h6⟩
  obtain ⟨w, addr, rfl⟩ | ⟨w, addr, v, hfits, rfl⟩ := ha.read_or_write <;> obtain rfl : addr = _ := haddr
  · simp only [decodeCipher, readAccess_write, Bool.false_eq_true, if_false]
    split_ifs <;> simp_all [Instr.IsAccess, Instr.wf, Instr.width, Instr.access]
  · simp only [decodeCipher, writeAccess_write, if_true]
    split_ifs <;> simp_all [Instr.IsAccess, Instr.wf, Instr.width, Instr.access]

theorem decodeFlashd_isAccess {off : Nat} (ha : a.Canonical) (hoff : off < c.flashSize)
    (haddr : a.addr = c.flashdBase + off) : (decodeFlashd off a).IsAccess c a := by
  obtain ⟨w, addr, rfl⟩ | ⟨w, addr, v, hfits, rfl⟩ := ha.read_or_write <;> obtain rfl : addr = _ := haddr
  · exact ⟨decide_eq_true hoff, rfl, rfl⟩
  · exact ⟨Bool.and_eq_true_iff.2 ⟨decide_eq_true hoff, hfits⟩, rfl, rfl⟩

theorem decodeGpio_isAccess (ha : a.Canonical) (hin : c.inGpio a.addr = true) :
    (decodeGpio c (a.addr - c.gpioBase) a).IsAccess c a := by
  have haddr := gpioAddr_of_inGpio hin
  have hreject (h : c.numPorts ≤ c.gpioSlot a.addr) : c.gpioRejected a.addr = true := gpioRejected_iff.2 ⟨hin, h⟩
  have hhole (h1 : c.gpioSlot a.addr < c.numPorts) (h2 : c.gpioOff a.addr ≠ c.pctlOff)
      (h3 : c.gpioOff a.addr ≠ c.pinOff) (h4 : ¬ (c.pfsOff ≤ c.gpioOff a.addr ∧ c.gpioOff a.addr < c.pfsOff + 16)) :
      c.gpioHole a.addr = true :=
    gpioHole_iff.2 ⟨hin, h1, h2, h3, h4⟩
  have hport : (a.addr - c.gpioBase) / c.gpioStride = c.gpioSlot a.addr := rfl
  have hoff : (a.addr - c.gpioBase) % c.gpioStride = c.gpioOff a.addr := rfl
  obtain ⟨w, addr, rfl⟩ | ⟨w, addr, v, hfits, rfl⟩ := ha.read_or_write
  · simp only [readAccess_addr] at *
    simp only [decodeGpio, hport, hoff, readAccess_write, readAccess_addr, Bool.false_eq_true, if_false]
    split_ifs <;> simp_all [Instr.IsAccess, Instr.wf, Instr.width, Instr.access]
  · simp only [writeAccess_addr] at *
    simp only [decodeGpio, hport, hoff, writeAccess_write, writeAccess_addr, if_true]
    split_ifs <;> simp_all [Instr.IsAccess, Instr.wf, Instr.width, Instr.access]

/-- Each window's owner decodes its addresses to the access, and an address of no window is unmapped. -/
theorem decodeAccess_isAccess (hc : c.WF) (ha : a.Canonical) (haddr : a.addr < 2 ^ c.addrBits) :
    (decodeAccess c a).IsAccess c a := by
  cases hwin : windowOf c a.addr with
  | none =>
    rw [decodeAccess_unmapped hwin]
    have hfree : c.isUnmapped a.addr = true := isUnmapped_iff.2 ⟨haddr, hwin⟩
    obtain ⟨w, addr, rfl⟩ | ⟨w, addr, v, hfits, rfl⟩ := ha.read_or_write
    · exact ⟨hfree, rfl, rfl⟩
    · exact ⟨Bool.and_eq_true_iff.2 ⟨hfree, hfits⟩, rfl, rfl⟩
  | some win =>
    obtain ⟨hmem, hcovers⟩ := windowOf_some hwin
    obtain ⟨off, hoff, hoffset⟩ := Window.covers_iff_exists.1 hcovers
    obtain ⟨n, hn, rfl⟩ | ⟨ch, hch, rfl⟩ | rfl | ⟨hu, rfl⟩ | rfl | rfl := mem_windows.1 hmem
    · rw [decodeAccess_timer hc hn hoff hoffset]
      exact decodeTimer_isAccess ha hn hoff hoffset
    · rw [decodeAccess_serial hc hch hoff hoffset]
      exact decodeSerial_isAccess ha hch hoff hoffset
    · rw [decodeAccess_flashc hc hoff hoffset]
      exact decodeFlashc_isAccess ha hoff hoffset
    · rw [decodeAccess_cipher hc hu hoff hoffset]
      exact decodeCipher_isAccess ha hu hoff hoffset
    · have hin : c.inGpio a.addr = true := inGpio_iff.2 ⟨off, hoff, hoffset⟩
      rw [decodeAccess_gpio hc hin]
      exact decodeGpio_isAccess ha hin
    · rw [decodeAccess_flashd hc hoff hoffset]
      exact decodeFlashd_isAccess ha hoff hoffset

theorem decode_of_accessOfTxn {t : Txn} (h : accessOfTxn c t = some a) : decode c t = some (decodeAccess c a) := by
  rw [decode, h, Option.map_some]

end

/-- Settles O2: the access of a word is canonical, so it decodes to an operation that is it. -/
theorem decodedOperationIsTheAccess : Obligations.DecodedOperationIsTheAccess := by
  intro c t a hc h
  obtain ⟨hcanonical, hwidth, haddr⟩ := canonical_of_accessOfTxn h
  obtain ⟨hwf, hsame, haccess⟩ := decodeAccess_isAccess hc hcanonical haddr
  exact ⟨decode_of_accessOfTxn h, ⟨hsame ▸ hwidth, hwf⟩, haccess⟩

end Sys2Proof
end

section
/-! Decoding inverts the encoder on well-formed operations (R120, R123, R132). -/

namespace Sys2Proof

/-! ## Register offsets of a well-formed configuration (R12 (c)) -/

/-- The offsets of registers that are not empty: each differs from those before it, and each is inside the window. -/
theorem offsets_distinct_lt {size : Nat} {regs : List (Nat × Nat)} (h : offsetsOk size regs)
    (hpos : ∀ r ∈ regs, 0 < r.2) :
    (regs.map Prod.fst).reverse.Nodup ∧ ∀ off ∈ regs.map Prod.fst, off < size := by
  obtain ⟨hnodup, hfit⟩ := h
  refine ⟨List.nodup_reverse.2 hnodup, fun off hoff => ?_⟩
  obtain ⟨r, hr, rfl⟩ := List.mem_map.1 hoff
  have := hfit r hr
  have := hpos r hr
  omega

section
variable {c : Cfg}

theorem timerOffsets (hc : c.WF) {n : Nat} (hn : n < c.numTimer) :
    [c.tctlOff, c.tmodOff, c.tcntOff].Nodup ∧ ∀ off ∈ [c.tcntOff, c.tmodOff, c.tctlOff], off < c.timerStride := by
  obtain ⟨_, _, ⟨h, _⟩, _⟩ := hc
  exact offsets_distinct_lt (h (by omega)) (by simp)

theorem serialOffsets (hc : c.WF) {ch : Nat} (hch : ch < c.numSerial) :
    [c.sctlOff, c.srxdOff, c.stxdOff].Nodup ∧ ∀ off ∈ [c.stxdOff, c.srxdOff, c.sctlOff], off < c.serialStride := by
  obtain ⟨_, _, ⟨_, h, _⟩, _⟩ := hc
  exact offsets_distinct_lt (h (by omega)) (by simp)

theorem flashcOffsets (hc : c.WF) :
    [c.fwdOff, c.fealOff, c.feahOff, c.fsalOff, c.fsahOff, c.fstatOff, c.fcmdOff].Nodup ∧
    ∀ off ∈ [c.fcmdOff, c.fstatOff, c.fsahOff, c.fsalOff, c.feahOff, c.fealOff, c.fwdOff], off < c.flashcSize := by
  obtain ⟨_, _, ⟨_, _, h, _⟩, _⟩ := hc
  exact offsets_distinct_lt h (by simp)

theorem cipherOffsets (hc : c.WF) (hu : c.cipherUnit = true) :
    [c.cdoutOff, c.cdinOff, c.civOff, c.ckeyOff, c.cmodeOff, c.ccmdOff].Nodup ∧
    ∀ off ∈ [c.ccmdOff, c.cmodeOff, c.ckeyOff, c.civOff, c.cdinOff, c.cdoutOff], off < c.cipherSize := by
  obtain ⟨_, _, ⟨_, _, _, h, _⟩, _⟩ := hc
  exact offsets_distinct_lt (h hu) (by simp)

/-- The offsets inside a slot, `PFS` by the pin's number. -/
theorem gpioOffsets (hc : c.WF) {p : Nat} (hp : p < c.numPorts) :
    p < c.gpioSlots ∧ c.pctlOff < c.gpioStride ∧ c.pinOff < c.gpioStride ∧ c.pinOff ≠ c.pctlOff ∧
    ∀ i : Fin 16, c.pfsOff + i.val < c.gpioStride ∧ c.pfsOff + i.val ≠ c.pctlOff ∧ c.pfsOff + i.val ≠ c.pinOff := by
  obtain ⟨_, hcounts, ⟨_, _, _, _, h⟩, _⟩ := hc
  have hslot : p < c.gpioSlots := Nat.lt_of_lt_of_le hp hcounts
  obtain ⟨hnodup, hlt⟩ := offsets_distinct_lt (h (by omega)) (by simp)
  rw [List.nodup_reverse] at hnodup
  simp at hnodup hlt
  obtain ⟨⟨hdistinct, hpctl⟩, hpin, _⟩ := hnodup
  obtain ⟨hpctlLt, hpinLt, hpfsLt⟩ := hlt
  exact ⟨hslot, hpctlLt, hpinLt, Ne.symm hdistinct, fun i => ⟨hpfsLt i i.isLt, hpctl i i.isLt, hpin i i.isLt⟩⟩

end

/-! ## Each operation decodes back -/

/-- The operation's access is inside the address space and decodes to the operation. -/
def Instr.DecodesBack (c : Cfg) (i : Instr) : Prop :=
  (i.access c).addr < 2 ^ c.addrBits ∧ decodeAccess c (i.access c) = i

section
variable {c : Cfg} {i : Instr}

theorem decodeTctl_eq_ite (n : Nat) (w : Width) (v : Word) : decodeTctl c n w v =
    if commandCode v = c.timerStartPattern then .tctlStart n w v
    else if commandCode v = c.timerStopPattern then .tctlStop n w v else .tctlOther n w v := rfl

theorem decodeFcmd_eq_ite (w : Width) (v : Word) : decodeFcmd c w v =
    if commandCode v = c.fcmdClear then .fcmdClear w v
    else if commandCode v = c.fcmdWrite then .fcmdWrite w v
    else if commandCode v = c.fcmdErase then .fcmdErase w v
    else if commandCode v = c.fcmdBlank then .fcmdBlank w v else .fcmdOther w v := rfl

/-- An operation at an offset of a timer channel's window decodes back where the channel's decoder gives it; the lemmas
of the other units say the same. -/
theorem decodesBack_of_timer {n off : Nat} (hc : c.WF) (hn : n < c.numTimer) (hoff : off < c.timerStride)
    (haddr : (i.access c).addr = timerAddr c n off) (h : decodeTimer c n off (i.access c) = i) : i.DecodesBack c :=
  ⟨covers_lt hc (mem_windows.2 (.inl ⟨n, hn, rfl⟩)) (Window.covers_iff_exists.2 ⟨off, hoff, haddr⟩),
    (decodeAccess_timer hc hn hoff haddr).trans h⟩

theorem decodesBack_of_serial {ch off : Nat} (hc : c.WF) (hch : ch < c.numSerial) (hoff : off < c.serialStride)
    (haddr : (i.access c).addr = serialAddr c ch off) (h : decodeSerial c ch off (i.access c) = i) : i.DecodesBack c :=
  ⟨covers_lt hc (mem_windows.2 (.inr (.inl ⟨ch, hch, rfl⟩))) (Window.covers_iff_exists.2 ⟨off, hoff, haddr⟩),
    (decodeAccess_serial hc hch hoff haddr).trans h⟩

theorem decodesBack_of_flashc {off : Nat} (hc : c.WF) (hoff : off < c.flashcSize)
    (haddr : (i.access c).addr = c.flashcBase + off) (h : decodeFlashc c off (i.access c) = i) : i.DecodesBack c :=
  ⟨covers_lt hc (mem_windows.2 (.inr (.inr (.inl rfl)))) (Window.covers_iff_exists.2 ⟨off, hoff, haddr⟩),
    (decodeAccess_flashc hc hoff haddr).trans h⟩

theorem decodesBack_of_cipher {off : Nat} (hc : c.WF) (hu : c.cipherUnit = true) (hoff : off < c.cipherSize)
    (haddr : (i.access c).addr = c.cipherBase + off) (h : decodeCipher c off (i.access c) = i) : i.DecodesBack c :=
  ⟨covers_lt hc (mem_windows.2 (.inr (.inr (.inr (.inl ⟨hu, rfl⟩)))))
      (Window.covers_iff_exists.2 ⟨off, hoff, haddr⟩),
    (decodeAccess_cipher hc hu hoff haddr).trans h⟩

theorem decodesBack_of_flashd {off : Nat} (hc : c.WF) (hoff : off < c.flashSize)
    (haddr : (i.access c).addr = c.flashdBase + off) (h : decodeFlashd off (i.access c) = i) : i.DecodesBack c :=
  ⟨covers_lt hc (mem_windows.2 (.inr (.inr (.inr (.inr (.inr rfl))))))
      (Window.covers_iff_exists.2 ⟨off, hoff, haddr⟩),
    (decodeAccess_flashd hc hoff haddr).trans h⟩

theorem decodesBack_of_gpio (hc : c.WF) (hin : c.inGpio (i.access c).addr = true)
    (h : decodeGpio c ((i.access c).addr - c.gpioBase) (i.access c) = i) : i.DecodesBack c := by
  refine ⟨?_, (decodeAccess_gpio hc hin).trans h⟩
  exact covers_lt hc (mem_windows.2 (.inr (.inr (.inr (.inr (.inl rfl))))))
    (Window.covers_iff_exists.2 (inGpio_iff.1 hin))

theorem decodesBack_of_unmapped (hfree : c.isUnmapped (i.access c).addr = true)
    (h : (if (i.access c).write then .unmappedW (i.access c).addr (i.access c).width (i.access c).data
      else .unmappedR (i.access c).addr (i.access c).width) = i) : i.DecodesBack c := by
  obtain ⟨hlt, hwin⟩ := isUnmapped_iff.1 hfree
  exact ⟨hlt, (decodeAccess_unmapped hwin).trans h⟩

/-- Unit by unit: the registers' offsets tell them apart, a command's code tells its operation (R134), and the address of
an operation that reaches no register is where there is none. -/
theorem decodesBack_of_wf (hc : c.WF) (h : i.wf c = true) : i.DecodesBack c := by
  have ⟨_, _, _, _, ⟨hpatterns, hcodes⟩, _⟩ := hc
  cases i
  case tcntW n _ _ | tcntR n _ | tmodW n _ _ | tmodR n _ | tctlStart n _ _ | tctlStop n _ _ | tctlOther n _ _
      | tctlR n _ =>
    simp only [Instr.wf, Bool.and_eq_true, decide_eq_true_eq, and_assoc] at h
    have hn : n < c.numTimer := by simp only [h]
    have ⟨hdistinct, hlt⟩ := timerOffsets hc hn
    simp at hdistinct
    refine decodesBack_of_timer hc hn (hlt _ (by simp)) rfl ?_
    simp [decodeTimer, Instr.access, hdistinct, decodeTctl_eq_ite, h, hpatterns.symm]
  case stxdW ch _ _ | stxdR ch _ | srxdW ch _ _ | srxdR ch _ | sctlW ch _ _ | sctlR ch _ =>
    simp only [Instr.wf, Bool.and_eq_true, decide_eq_true_eq] at h
    have hch : ch < c.numSerial := by simp only [h]
    have ⟨hdistinct, hlt⟩ := serialOffsets hc hch
    simp at hdistinct
    refine decodesBack_of_serial hc hch (hlt _ (by simp)) rfl ?_
    simp [decodeSerial, Instr.access, hdistinct]
  case fsahW _ _ | fsahR _ | fsalW _ _ | fsalR _ | feahW _ _ | feahR _ | fealW _ _ | fealR _ | fwdW _ _ | fwdR _
      | fcmdClear _ _ | fcmdWrite _ _ | fcmdErase _ _ | fcmdBlank _ _ | fcmdOther _ _ | fcmdR _ | fstatR _
      | fstatW _ _ =>
    simp [Instr.wf] at h
    have ⟨hdistinct, hlt⟩ := flashcOffsets hc
    simp at hdistinct
    have hlater := List.nodup_reverse.2 hcodes
    simp at hlater
    refine decodesBack_of_flashc hc (hlt _ (by simp)) rfl ?_
    simp [decodeFlashc, Instr.access, hdistinct, decodeFcmd_eq_ite, h, hlater]
  case flashdR o _ | flashdW o _ _ =>
    simp only [Instr.wf, Bool.and_eq_true, decide_eq_true_eq] at h
    have ho : o < c.flashSize := by simp only [h]
    exact decodesBack_of_flashd hc ho rfl rfl
  case ccmdW _ _ | ccmdR _ | cmodeW _ _ | cmodeR _ | ckeyW _ _ | ckeyR _ | civW _ _ | civR _ | cdinW _ _ | cdinR _
      | cdoutR _ | cdoutW _ _ =>
    simp only [Instr.wf, Bool.and_eq_true] at h
    have hu : c.cipherUnit = true := by simp only [h]
    have ⟨hdistinct, hlt⟩ := cipherOffsets hc hu
    simp at hdistinct
    refine decodesBack_of_cipher hc hu (hlt _ (by simp)) rfl ?_
    simp [decodeCipher, Instr.access, hdistinct]
  case gpioRejectR addr _ | gpioRejectW addr _ _ =>
    simp only [Instr.wf, Bool.and_eq_true, gpioRejected_iff, Cfg.gpioSlot] at h
    have hin : c.inGpio addr = true := by simp only [h]
    refine decodesBack_of_gpio hc hin ?_
    simp [decodeGpio, Instr.access, h]
  case pctlR p _ | pctlW p _ _ | pinR p _ | pinW p _ _ =>
    simp only [Instr.wf, Bool.and_eq_true, decide_eq_true_eq] at h
    have hp : p < c.numPorts := by simp only [h]
    obtain ⟨hslot, hpctl, hpin, hdistinct, _⟩ := gpioOffsets hc hp
    have hat := @gpioAddr_slot_off c p
    simp only [Cfg.gpioSlot, Cfg.gpioOff] at hat
    refine decodesBack_of_gpio hc (inGpio_gpioAddr hslot ‹_›) ?_
    simp [decodeGpio, Instr.access, hat, hdistinct, hpctl, hpin, Nat.not_le.2 hp]
  case pfsW p pin _ _ | pfsR p pin _ =>
    simp only [Instr.wf, Bool.and_eq_true, decide_eq_true_eq] at h
    have hp : p < c.numPorts := by simp only [h]
    obtain ⟨hslot, _, _, _, hpfs⟩ := gpioOffsets hc hp
    obtain ⟨hlt, hpctl, hpin⟩ := hpfs pin
    have hat := gpioAddr_slot_off c (p := p) hlt
    simp only [Cfg.gpioSlot, Cfg.gpioOff] at hat
    refine decodesBack_of_gpio hc (inGpio_gpioAddr hslot hlt) ?_
    simp [decodeGpio, Instr.access, hat, hpctl, hpin, Nat.not_le.2 hp]
  case noregRTimer addr _ | noregWTimer addr _ _ =>
    simp only [Instr.wf, Bool.and_eq_true] at h
    have hhole : c.timerHole addr = true := by simp only [h]
    obtain ⟨n, hn, off, hoff, haddr, hfree⟩ := timerHole_iff.1 hhole
    refine decodesBack_of_timer hc hn hoff haddr ?_
    simp [decodeTimer, Instr.access, hfree]
  case noregRSerial addr _ | noregWSerial addr _ _ =>
    simp only [Instr.wf, Bool.and_eq_true] at h
    have hhole : c.serialHole addr = true := by simp only [h]
    obtain ⟨ch, hch, off, hoff, haddr, hfree⟩ := serialHole_iff.1 hhole
    refine decodesBack_of_serial hc hch hoff haddr ?_
    simp [decodeSerial, Instr.access, hfree]
  case noregRFlashc addr _ | noregWFlashc addr _ _ =>
    simp only [Instr.wf, Bool.and_eq_true] at h
    have hhole : c.flashcHole addr = true := by simp only [h]
    obtain ⟨off, hoff, haddr, hfree⟩ := flashcHole_iff.1 hhole
    refine decodesBack_of_flashc hc hoff haddr ?_
    simp [decodeFlashc, Instr.access, hfree]
  case noregRCipher addr _ | noregWCipher addr _ _ =>
    simp only [Instr.wf, Bool.and_eq_true] at h
    have hhole : c.cipherHole addr = true := by simp only [h]
    obtain ⟨hu, off, hoff, haddr, hfree⟩ := cipherHole_iff.1 hhole
    refine decodesBack_of_cipher hc hu hoff haddr ?_
    simp [decodeCipher, Instr.access, hfree]
  case noregRGpio addr _ | noregWGpio addr _ _ =>
    simp only [Instr.wf, Bool.and_eq_true] at h
    have hhole : c.gpioHole addr = true := by simp only [h]
    obtain ⟨hin, hport, hpctl, hpin, hpfs⟩ := gpioHole_iff.1 hhole
    simp only [Cfg.gpioSlot, Cfg.gpioOff] at hport hpctl hpin hpfs
    refine decodesBack_of_gpio hc hin ?_
    simp [decodeGpio, Instr.access, hpctl, hpin, hpfs, Nat.not_le.2 hport]
  case unmappedR addr _ | unmappedW addr _ _ =>
    simp only [Instr.wf, Bool.and_eq_true] at h
    have hfree : c.isUnmapped addr = true := by simp only [h]
    exact decodesBack_of_unmapped hfree rfl

open Laws.CanonicalAccess in
/-- A well-formed operation's access is canonical (R122). -/
theorem access_canonical (h : i.WF c) : (i.access c).Canonical := by
  have hall : Statement i := by
    cases i
    exacts [tcntW _ _ _, tcntR _ _, tmodW _ _ _, tmodR _ _, tctlStart _ _ _, tctlStop _ _ _, tctlOther _ _ _,
      tctlR _ _, stxdW _ _ _, stxdR _ _, srxdR _ _, srxdW _ _ _, sctlW _ _ _, sctlR _ _, fsahW _ _, fsahR _,
      fsalW _ _, fsalR _, feahW _ _, feahR _, fealW _ _, fealR _, fwdW _ _, fwdR _, fcmdClear _ _, fcmdWrite _ _,
      fcmdErase _ _, fcmdBlank _ _, fcmdOther _ _, fcmdR _, fstatR _, fstatW _ _, flashdR _ _, flashdW _ _ _,
      ccmdW _ _, ccmdR _, cmodeW _ _, cmodeR _, ckeyW _ _, ckeyR _, civW _ _, civR _, cdinW _ _, cdinR _, cdoutR _,
      cdoutW _ _, gpioRejectR _ _, gpioRejectW _ _ _, pctlW _ _ _, pctlR _ _, pinR _ _, pinW _ _ _, pfsW _ _ _ _,
      pfsR _ _ _, noregRTimer _ _, noregWTimer _ _ _, noregRSerial _ _, noregWSerial _ _ _, noregRFlashc _ _,
      noregWFlashc _ _ _, noregRCipher _ _, noregWCipher _ _ _, noregRGpio _ _, noregWGpio _ _ _, unmappedR _ _,
      unmappedW _ _ _]
  exact hall c h

theorem access_width (c : Cfg) (i : Instr) : (i.access c).width = i.width := by
  cases i <;> rfl

end

/-- Settles O1: the word denotes the operation's access, which decodes to the operation. -/
theorem decodeEncodeRoundTrip : Obligations.DecodeEncodeRoundTrip := by
  intro c i hc hi
  obtain ⟨hwidth, hwf⟩ := hi
  obtain ⟨haddr, hdecode⟩ := decodesBack_of_wf hc hwf
  have haccess : accessOfTxn c (encode c i) = some (i.access c) :=
    accessOfTxn_txn haddr (access_width c i ▸ hwidth) (access_canonical ⟨hwidth, hwf⟩)
  rw [decode_of_accessOfTxn haccess, hdecode]

end Sys2Proof
end

section
/-! The words of the spec's vectors (V3, V9, V14, V15, V16, V25, V35, V41, V47, V52, V53). -/

namespace Sys2Proof

/-- Settles O6: the decoder evaluates each word to the operation named. -/
theorem wordsOfTheSpecDecode : Obligations.WordsOfTheSpecDecode := by
  unfold Obligations.WordsOfTheSpecDecode
  decide

end Sys2Proof
end

section
/-! SUPPORT. Masked comparison of words: what `x &&& m = v` says of the bits the mask fixes. -/

namespace Sys2Proof

/-- A field the mask fixes whole has the value's bits. -/
theorem field_of_and_eq {n lo len : Nat} {x m v : BitVec n} (h : x &&& m = v)
    (hm : m.extractLsb' lo len = BitVec.allOnes len) : x.toNat / 2 ^ lo % 2 ^ len = v.toNat / 2 ^ lo % 2 ^ len := by
  have hfield : x.extractLsb' lo len = v.extractLsb' lo len := by
    rw [← h, BitVec.extractLsb'_and, hm, BitVec.and_allOnes]
  simpa [BitVec.extractLsb'_toNat, Nat.shiftRight_eq_div_pow] using congrArg BitVec.toNat hfield

/-- The words a mask and a value select are among those from the value on, as many as the free bits can tell. -/
theorem range_of_and_eq {n : Nat} {x m v : BitVec n} (h : x &&& m = v) :
    v.toNat ≤ x.toNat ∧ x.toNat ≤ v.toNat + (~~~m).toNat := by
  have hdisjoint : (x &&& m) &&& (x &&& ~~~m) = 0#n := by
    ext i hi
    simp +contextual
  have hparts : (x &&& m) + (x &&& ~~~m) = x := by
    rw [BitVec.add_eq_or_of_and_eq_zero _ _ hdisjoint]
    ext i hi
    by_cases hx : x[i] <;> simp [hx]
  have hsum := BitVec.toNat_add_of_and_eq_zero hdisjoint
  have hfree : (x &&& ~~~m).toNat ≤ (~~~m).toNat := by
    rw [BitVec.toNat_and]
    exact Nat.and_le_right
  rw [hparts, h] at hsum
  omega

/-- A mask that frees the low `j` bits selects the aligned block of 2 to the `j` words at the value. -/
theorem and_shiftedOnes_eq {n j lo : Nat} {x v : BitVec n} (hv : v.toNat = 2 ^ j * lo) (hlo : v.toNat ≤ x.toNat)
    (hhi : x.toNat < v.toNat + 2 ^ j) : x &&& (BitVec.allOnes n <<< j) = v := by
  rw [← BitVec.shiftLeft_ushiftRight]
  apply BitVec.eq_of_toNat_eq
  have hdiv : x.toNat / 2 ^ j = lo := by
    rw [hv] at hlo hhi
    exact Nat.div_eq_of_lt_le (by rwa [Nat.mul_comm]) (by rwa [Nat.mul_comm, Nat.mul_succ])
  rw [BitVec.toNat_shiftLeft, BitVec.toNat_ushiftRight, Nat.shiftRight_eq_div_pow, hdiv, Nat.shiftLeft_eq,
    Nat.mul_comm, ← hv, Nat.mod_eq_of_lt v.isLt]

end Sys2Proof
end

section
/-! At CFG0 the decoder gives the first row of the decode table that a word selects (R132, R133). -/

namespace Sys2Proof

/-! ## Rows by their fields -/

namespace OpcodeRow

/-- The direction the row asks for: bit `rw` (R120). -/
def isWrite (r : OpcodeRow) : Bool := r.value.getLsbD 66

/-- The address bits the row asks for. -/
def addr (r : OpcodeRow) : Word := r.value.extractLsb' 32 32

/-- The address bits the row fixes. -/
def addrMask (r : OpcodeRow) : Word := r.mask.extractLsb' 32 32

/-- The data bits the row asks for: a command's code, where it has one (R134). -/
def code (r : OpcodeRow) : Word := r.value.extractLsb' 0 32

/-- The data bits the row fixes. -/
def codeMask (r : OpcodeRow) : Word := r.mask.extractLsb' 0 32

/-- The word selects the row (R133). -/
def Selects (r : OpcodeRow) (t : BitVec 67) : Prop := t &&& r.mask = r.value

end OpcodeRow

/-- Every row fixes the direction and leaves `size` free. -/
theorem opcodeRows_top : ∀ r ∈ opcodeRows, r.mask.extractLsb' 64 3 = 4#3 ∧
    r.value.extractLsb' 64 3 = if r.isWrite then 4#3 else 0#3 := by
  decide

/-- A word is its direction and size, its address and its data (R120). -/
theorem eq_iff_fields {x y : BitVec 67} : x = y ↔ x.extractLsb' 64 3 = y.extractLsb' 64 3 ∧
    x.extractLsb' 32 32 = y.extractLsb' 32 32 ∧ x.extractLsb' 0 32 = y.extractLsb' 0 32 := by
  refine ⟨fun h => h ▸ ⟨rfl, rfl, rfl⟩, fun ⟨htop, haddr, hdata⟩ => ?_⟩
  have happend (z : BitVec 67) : z.extractLsb' 64 3 ++ (z.extractLsb' 32 32 ++ z.extractLsb' 0 32) = z :=
    calc z.extractLsb' 64 3 ++ (z.extractLsb' 32 32 ++ z.extractLsb' 0 32)
      _ = z.extractLsb' 64 3 ++ z.extractLsb' 0 64 := by
        rw [BitVec.extractLsb'_append_extractLsb'_eq_extractLsb' (by rfl)]
      _ = z := BitVec.extractLsb'_append_extractLsb' (w := 3) (len := 64)
  rw [← happend x, ← happend y, htop, haddr, hdata]

/-- A word selects a row by its direction, and by its address and data under the row's masks (R133). -/
theorem selects_iff {r : OpcodeRow} (hr : r ∈ opcodeRows) {t : BitVec 67} : r.Selects t ↔
    t.getLsbD 66 = r.isWrite ∧ t.extractLsb' 32 32 &&& r.addrMask = r.addr ∧
      t.extractLsb' 0 32 &&& r.codeMask = r.code := by
  obtain ⟨hmask, hvalue⟩ := opcodeRows_top r hr
  have hdirection : ∀ (x : BitVec 3) (b : Bool), (x &&& 4#3 = if b then 4#3 else 0#3) ↔ x.getLsbD 2 = b := by decide
  have htop : (t.extractLsb' 64 3).getLsbD 2 = t.getLsbD 66 := by simp
  rw [OpcodeRow.Selects, eq_iff_fields, BitVec.extractLsb'_and, BitVec.extractLsb'_and, BitVec.extractLsb'_and, hmask,
    hvalue, hdirection, htop]
  rfl

/-! ## The row of an operation -/

/-- Row `k` of the table; past its end, a row of no name. -/
def opcodeRowAt (k : Nat) : OpcodeRow := opcodeRows.getD k ⟨"", 0, 0⟩

/-- The row of an operation: the constructors stand in the order of the table (R132). -/
def Instr.row (i : Instr) : OpcodeRow := opcodeRowAt i.ctorIdx

theorem ctorIdx_lt (i : Instr) : i.ctorIdx < opcodeRows.length := by
  cases i <;> exact of_decide_eq_true rfl

theorem row_eq_getElem (i : Instr) : i.row = opcodeRows[i.ctorIdx]'(ctorIdx_lt i) :=
  List.getD_eq_getElem _ _ (ctorIdx_lt i)

theorem row_mem (i : Instr) : i.row ∈ opcodeRows := row_eq_getElem i ▸ List.getElem_mem _

theorem row_mnemonic (i : Instr) : i.row.mnemonic = i.mnemonic := by
  cases i <;> rfl

theorem row_isWrite (c : Cfg) (i : Instr) : i.row.isWrite = (i.access c).write := by
  cases i <;> dsimp only [Instr.row, Instr.ctorIdx, Instr.access, readAccess, writeAccess] <;> decide

/-- The rows before row `k` that no bit fixed by both tells from it. -/
def earlierRows (k : Nat) : List OpcodeRow :=
  (opcodeRows.take k).filter fun q => q.value &&& (opcodeRowAt k).mask == (opcodeRowAt k).value &&& q.mask

/-- A word that selects two rows has the bits that both fix. -/
theorem compatible_of_selects {q r : OpcodeRow} {t : BitVec 67} (hq : q.Selects t) (hr : r.Selects t) :
    q.value &&& r.mask = r.value &&& q.mask := by
  rw [← hq, ← hr, BitVec.and_assoc, BitVec.and_assoc, BitVec.and_comm q.mask]

/-- A word that selects a row, and none of the earlier ones it could be taken for, has that row (R133). -/
theorem tableRow_eq_row {i : Instr} {t : BitVec 67} (hsel : i.row.Selects t)
    (hfirst : ∀ q ∈ earlierRows i.ctorIdx, ¬ q.Selects t) : tableRow t = some i.row := by
  have hsplit : opcodeRows = opcodeRows.take i.ctorIdx ++ i.row :: opcodeRows.drop (i.ctorIdx + 1) := by
    rw [row_eq_getElem, List.getElem_cons_drop, List.take_append_drop]
  refine List.find?_eq_some_iff_append.2 ⟨beq_iff_eq.2 hsel, _, _, hsplit, fun q hq => ?_⟩
  rw [Bool.not_eq_true', beq_eq_false_iff_ne]
  intro hqsel
  exact hfirst q (List.mem_filter.2 ⟨hq, beq_iff_eq.2 (compatible_of_selects hqsel hsel)⟩) hqsel

/-- Only `TCTL.OTHER` (row 6), `FCMD.OTHER` (row 28), the `NOREG` rows (54 to 63) and the `UNMAPPED` rows (64, 65) come
after rows they can be taken for. -/
theorem earlierRows_eq_nil : ∀ k < 54, k ≠ 6 → k ≠ 28 → earlierRows k = [] := by
  decide

/-! ## The word of an operation -/

/-- At CFG0 the operation is well-formed, and its access has the word's direction, address and command code. -/
structure Instr.HasWord (i : Instr) (t : BitVec 67) : Prop where
  wf : i.wf cfg0 = true
  write : (i.access cfg0).write = t.getLsbD 66
  addr : (i.access cfg0).addr = (t.extractLsb' 32 32).toNat
  code : (i.access cfg0).write = true → commandCode (i.access cfg0).data = commandCode (t.extractLsb' 0 32)

theorem commandCode_canonicalData (w : Width) (v : Word) : commandCode (canonicalData w v) = commandCode v := by
  cases w <;> simp [commandCode, canonicalData, BitVec.setWidth_setWidth_of_le]

/-- The operation a word decodes to has that word: it is the word's access (R123). -/
theorem hasWord_of_decode {i : Instr} {t : BitVec 67} (h : decode cfg0 t.toNat = some i) : i.HasWord t := by
  obtain ⟨a, ha, rfl⟩ := Option.map_eq_some_iff.1 h
  obtain ⟨hcanonical, _, hlt⟩ := canonical_of_accessOfTxn ha
  obtain ⟨hwf, _, haccess⟩ := decodeAccess_isAccess Machine.cfg0_wf hcanonical hlt
  obtain ⟨_, _, _, haddr, _, hwrite, hdata⟩ := accessOfTxn_some ha
  obtain ⟨_, eaddr, edata, ewrite⟩ := txn_fields_cfg0 t
  refine ⟨hwf, ?_, ?_, fun hw => ?_⟩
  · rw [haccess, hwrite, ewrite]
  · rw [haccess, haddr, eaddr]
  · rw [haccess] at hw ⊢
    rw [hdata, hw, if_pos rfl, commandCode_canonicalData, edata]

/-! ## The holes and the unmapped addresses of CFG0 -/

section
variable {addr : Nat}

theorem timerHole_cfg0 (h : cfg0.timerHole addr = true) :
    ∃ n < 4, ∃ off < 16, addr = 0x40000000 + n * 16 + off ∧ off ≠ 0 ∧ off ≠ 2 ∧ off ≠ 4 :=
  timerHole_iff.1 h

theorem serialHole_cfg0 (h : cfg0.serialHole addr = true) :
    ∃ ch < 4, ∃ off < 16, addr = 0x40001000 + ch * 16 + off ∧ off ≠ 0 ∧ off ≠ 2 ∧ off ≠ 4 :=
  serialHole_iff.1 h

theorem flashcHole_cfg0 (h : cfg0.flashcHole addr = true) :
    ∃ off < 16, addr = 0x40002000 + off ∧ off ≠ 0 ∧ off ≠ 2 ∧ off ≠ 4 ∧ off ≠ 6 ∧ off ≠ 8 ∧ off ≠ 10 ∧ off ≠ 12 :=
  flashcHole_iff.1 h

theorem cipherHole_cfg0 (h : cfg0.cipherHole addr = true) :
    ∃ off < 32, addr = 0x40003000 + off ∧ off ≠ 0 ∧ off ≠ 4 ∧ off ≠ 8 ∧ off ≠ 12 ∧ off ≠ 16 ∧ off ≠ 20 :=
  have ⟨_, hhole⟩ := cipherHole_iff.1 h
  hhole

theorem inGpio_cfg0 (h : cfg0.inGpio addr = true) : 0x40004000 ≤ addr ∧ addr < 0x40004200 := by
  obtain ⟨rel, hrel, rfl⟩ := inGpio_iff.1 h
  have hrel' : rel < 16 * 32 := hrel
  have hbase : cfg0.gpioBase = 0x40004000 := rfl
  omega

theorem gpioHole_cfg0 (h : cfg0.gpioHole addr = true) : 0x40004000 ≤ addr ∧ addr < 0x40004100 ∧
    addr % 32 ≠ 0 ∧ addr % 32 ≠ 4 ∧ addr % 32 < 16 := by
  obtain ⟨hin, hport, hpctl, hpin, hpfs⟩ := gpioHole_iff.1 h
  have hport' : (addr - 0x40004000) / 32 < 8 := hport
  have hpctl' : (addr - 0x40004000) % 32 ≠ 0 := hpctl
  have hpin' : (addr - 0x40004000) % 32 ≠ 4 := hpin
  have hpfs' : ¬ (16 ≤ (addr - 0x40004000) % 32 ∧ (addr - 0x40004000) % 32 < 16 + 16) := hpfs
  have := inGpio_cfg0 hin
  omega

theorem gpioRejected_cfg0 (h : cfg0.gpioRejected addr = true) : 0x40004100 ≤ addr ∧ addr < 0x40004200 := by
  obtain ⟨hin, hport⟩ := gpioRejected_iff.1 h
  have hport' : 8 ≤ (addr - 0x40004000) / 32 := hport
  have := inGpio_cfg0 hin
  omega

end

/-! ## The addresses that are in a window of CFG0 -/

/-- The blocks of addresses the windows of CFG0 make up, by base and size: timers, serial channels, flash controller,
cipher, GPIO and flash data (R95). -/
def mappedBlocks : List (Nat × Nat) :=
  [(0x40000000, 0x40), (0x40001000, 0x40), (0x40002000, 0x10), (0x40003000, 0x20), (0x40004000, 0x200),
   (0x40100000, 0x1000)]

/-- No unmapped address is in one of the blocks. -/
theorem unmapped_cfg0 {addr : Nat} (h : cfg0.isUnmapped addr = true) :
    ∀ b ∈ mappedBlocks, ¬ (b.1 ≤ addr ∧ addr < b.1 + b.2) := by
  have hfree {w : Window} (hw : w ∈ cfg0.windows) : ¬ (w.base ≤ addr ∧ addr < w.base + w.size) := by
    rw [← Window.covers_iff, windowOf_none.1 (isUnmapped_iff.1 h).2 w hw]
    exact Bool.false_ne_true
  have htimer (n : Nat) (hn : n < 4) : ¬ (0x40000000 + n * 16 ≤ addr ∧ addr < 0x40000000 + n * 16 + 16) :=
    hfree (mem_windows.2 (.inl ⟨n, hn, rfl⟩))
  have hserial (ch : Nat) (hch : ch < 4) : ¬ (0x40001000 + ch * 16 ≤ addr ∧ addr < 0x40001000 + ch * 16 + 16) :=
    hfree (mem_windows.2 (.inr (.inl ⟨ch, hch, rfl⟩)))
  have hflashc : ¬ (0x40002000 ≤ addr ∧ addr < 0x40002000 + 0x10) :=
    hfree (mem_windows.2 (.inr (.inr (.inl rfl))))
  have hcipher : ¬ (0x40003000 ≤ addr ∧ addr < 0x40003000 + 0x20) :=
    hfree (mem_windows.2 (.inr (.inr (.inr (.inl ⟨rfl, rfl⟩)))))
  have hgpio : ¬ (0x40004000 ≤ addr ∧ addr < 0x40004000 + 0x200) :=
    hfree (mem_windows.2 (.inr (.inr (.inr (.inr (.inl rfl))))))
  have hflashd : ¬ (0x40100000 ≤ addr ∧ addr < 0x40100000 + 0x1000) :=
    hfree (mem_windows.2 (.inr (.inr (.inr (.inr (.inr rfl))))))
  have htimer' := htimer ((addr - 0x40000000) / 16)
  have hserial' := hserial ((addr - 0x40001000) / 16)
  simp only [mappedBlocks, List.forall_mem_cons, List.not_mem_nil, false_implies, implies_true, and_true]
  exact ⟨by omega, by omega, hflashc, hcipher, hgpio, hflashd⟩

/-! ## A word selects the row of its operation -/

/-- A row that frees the low `j` address bits selects the block of addresses at its own. -/
theorem ofNat_and_addrMask {r : OpcodeRow} {a : Nat} (j lo : Nat)
    (hrow : r.addrMask = BitVec.allOnes 32 <<< j ∧ r.addr.toNat = 2 ^ j * lo) (hlo : 2 ^ j * lo ≤ a)
    (hhi : a < 2 ^ j * lo + 2 ^ j) (ha : a < 2 ^ 32) : BitVec.ofNat 32 a &&& r.addrMask = r.addr := by
  obtain ⟨hmask, haddr⟩ := hrow
  have htoNat : (BitVec.ofNat 32 a).toNat = a := Nat.mod_eq_of_lt ha
  rw [hmask]
  exact and_shiftedOnes_eq haddr (by rwa [haddr, htoNat]) (by rwa [haddr, htoNat])

/-- The address of a well-formed operation's access has the bits its row fixes. -/
theorem access_addr_and_addrMask {i : Instr} (h : i.wf cfg0 = true) :
    BitVec.ofNat 32 (i.access cfg0).addr &&& i.row.addrMask = i.row.addr := by
  cases i <;> dsimp only [Instr.row, Instr.ctorIdx, Instr.access, readAccess, writeAccess]
  case tcntW n _ _ | tcntR n _ | tmodW n _ _ | tmodR n _ | tctlStart n _ _ | tctlStop n _ _ | tctlOther n _ _
      | tctlR n _ =>
    simp only [Instr.wf, Bool.and_eq_true, decide_eq_true_eq, and_assoc] at h
    have hn : n < cfg0.numTimer := by simp only [h]
    clear h
    revert n
    decide
  case stxdW n _ _ | stxdR n _ | srxdW n _ _ | srxdR n _ | sctlW n _ _ | sctlR n _ =>
    simp only [Instr.wf, Bool.and_eq_true, decide_eq_true_eq] at h
    have hn : n < cfg0.numSerial := by simp only [h]
    clear h
    revert n
    decide
  case pctlR n _ | pctlW n _ _ | pinR n _ | pinW n _ _ =>
    simp only [Instr.wf, Bool.and_eq_true, decide_eq_true_eq] at h
    have hn : n < cfg0.numPorts := by simp only [h]
    clear h
    revert n
    decide
  case pfsR n pin _ | pfsW n pin _ _ =>
    simp only [Instr.wf, Bool.and_eq_true, decide_eq_true_eq] at h
    have hn : n < cfg0.numPorts := by simp only [h]
    clear h
    revert pin
    revert n
    decide
  case flashdR o _ | flashdW o _ _ =>
    simp only [Instr.wf, Bool.and_eq_true, decide_eq_true_eq] at h
    have ho : o < cfg0.flashSize := by simp only [h]
    change o < 0x1000 at ho
    change BitVec.ofNat 32 (0x40100000 + o) &&& _ = _
    exact ofNat_and_addrMask 12 0x40100 (by decide) (by omega) (by omega) (by omega)
  case gpioRejectR addr _ | gpioRejectW addr _ _ =>
    simp only [Instr.wf, Bool.and_eq_true] at h
    have haddr := gpioRejected_cfg0 (addr := addr) (by simp only [h])
    exact ofNat_and_addrMask 8 0x400041 (by decide) (by omega) (by omega) (by omega)
  case noregRTimer addr _ | noregWTimer addr _ _ =>
    simp only [Instr.wf, Bool.and_eq_true] at h
    obtain ⟨n, hn, off, hoff, haddr, _⟩ := timerHole_cfg0 (addr := addr) (by simp only [h])
    exact ofNat_and_addrMask 6 0x1000000 (by decide) (by omega) (by omega) (by omega)
  case noregRSerial addr _ | noregWSerial addr _ _ =>
    simp only [Instr.wf, Bool.and_eq_true] at h
    obtain ⟨ch, hch, off, hoff, haddr, _⟩ := serialHole_cfg0 (addr := addr) (by simp only [h])
    exact ofNat_and_addrMask 6 0x1000040 (by decide) (by omega) (by omega) (by omega)
  case noregRFlashc addr _ | noregWFlashc addr _ _ =>
    simp only [Instr.wf, Bool.and_eq_true] at h
    obtain ⟨off, hoff, haddr, _⟩ := flashcHole_cfg0 (addr := addr) (by simp only [h])
    exact ofNat_and_addrMask 4 0x4000200 (by decide) (by omega) (by omega) (by omega)
  case noregRCipher addr _ | noregWCipher addr _ _ =>
    simp only [Instr.wf, Bool.and_eq_true] at h
    obtain ⟨off, hoff, haddr, _⟩ := cipherHole_cfg0 (addr := addr) (by simp only [h])
    exact ofNat_and_addrMask 5 0x2000180 (by decide) (by omega) (by omega) (by omega)
  case noregRGpio addr _ | noregWGpio addr _ _ =>
    simp only [Instr.wf, Bool.and_eq_true] at h
    obtain ⟨hlo, hhi, _⟩ := gpioHole_cfg0 (addr := addr) (by simp only [h])
    exact ofNat_and_addrMask 9 0x200020 (by decide) (by omega) (by omega) (by omega)
  case unmappedR | unmappedW => exact BitVec.and_zero
  all_goals decide

/-- The byte of a command is fixed where the mask fixes the low byte (R134). -/
theorem commandCode_of_and_eq {x m v : Word} (h : x &&& m = v) (hm : commandCode m = BitVec.allOnes 8) :
    commandCode x = commandCode v := by
  rw [← h, commandCode, commandCode, BitVec.setWidth_and, ← commandCode.eq_1 m, hm, BitVec.and_allOnes]

theorem and_255_eq (x : Word) : x &&& 0xFF = (commandCode x).setWidth 32 := by
  apply BitVec.eq_of_toNat_eq
  have hlow : x.toNat &&& 255 = x.toNat % 2 ^ 8 := Nat.and_two_pow_sub_one_eq_mod _ 8
  simp [commandCode, hlow]
  omega

/-- The command code of a well-formed operation is that of its row, where the row has one (R134). -/
theorem commandCode_eq_row {i : Instr} {t : BitVec 67} (h : i.HasWord t) :
    i.row.codeMask = 0 ∧ i.row.code = 0 ∨
    i.row.codeMask = 0xFF ∧ i.row.code = (commandCode (t.extractLsb' 0 32)).setWidth 32 := by
  have hwf := h.wf
  have hcode := h.code
  cases i <;> dsimp only [Instr.row, Instr.ctorIdx, Instr.access, readAccess, writeAccess] at *
  case tctlStart | tctlStop | fcmdClear | fcmdWrite | fcmdErase | fcmdBlank =>
    simp only [Instr.wf, Bool.and_eq_true, decide_eq_true_eq] at hwf
    obtain ⟨_, hpattern⟩ := hwf
    rw [← hcode rfl, hpattern]
    exact .inr (by decide)
  all_goals exact .inl (by decide)

theorem data_and_codeMask {i : Instr} {t : BitVec 67} (h : i.HasWord t) :
    t.extractLsb' 0 32 &&& i.row.codeMask = i.row.code := by
  obtain ⟨hmask, hcode⟩ | ⟨hmask, hcode⟩ := commandCode_eq_row h
  · rw [hmask, hcode]
    exact BitVec.and_zero
  · rw [hmask, hcode, and_255_eq]

theorem row_selects {i : Instr} {t : BitVec 67} (h : i.HasWord t) : i.row.Selects t := by
  have haddr := access_addr_and_addrMask h.wf
  rw [h.addr, BitVec.ofNat_toNat, BitVec.setWidth_eq] at haddr
  exact (selects_iff (row_mem i)).2 ⟨(row_isWrite cfg0 i).trans h.write |>.symm, haddr, data_and_codeMask h⟩

/-! ## A word selects no earlier row -/

/-- What a selected row says of the word's direction, address and data. -/
theorem selects_earlierRow {k : Nat} {q : OpcodeRow} {t : BitVec 67} (hq : q ∈ earlierRows k) (h : q.Selects t) :
    t.extractLsb' 32 32 &&& q.addrMask = q.addr ∧ t.extractLsb' 0 32 &&& q.codeMask = q.code := by
  have hmem := List.mem_of_mem_take (List.mem_filter.1 hq).1
  exact ((selects_iff hmem).1 h).2

/-! What the rows before a `NOREG` or `UNMAPPED` row fix of an address: the offset of a register, or more. -/

/-- Before `NOREG` of a timer or serial window. -/
theorem earlierRows_channelRegister : ∀ k ∈ [54, 55, 56, 57], ∀ q ∈ earlierRows k,
    q.addrMask.extractLsb' 0 4 = BitVec.allOnes 4 ∧
      (q.addr.toNat % 16 = 0 ∨ q.addr.toNat % 16 = 2 ∨ q.addr.toNat % 16 = 4) := by
  decide

/-- Before `NOREG` of the flash controller window. -/
theorem earlierRows_flashcRegister : ∀ k ∈ [58, 59], ∀ q ∈ earlierRows k,
    q.addrMask.extractLsb' 0 4 = BitVec.allOnes 4 ∧ q.addr.toNat % 16 < 14 ∧ q.addr.toNat % 2 = 0 := by
  decide

/-- Before `NOREG` of the cipher window. -/
theorem earlierRows_cipherRegister : ∀ k ∈ [60, 61], ∀ q ∈ earlierRows k,
    q.addrMask.extractLsb' 0 5 = BitVec.allOnes 5 ∧ q.addr.toNat % 32 < 24 ∧ q.addr.toNat % 4 = 0 := by
  decide

/-- Before `NOREG` of the GPIO window: rows of `PCTL` or `PIN`, of a `PFS`, or of a slot that is no port. -/
theorem earlierRows_gpio : ∀ k ∈ [62, 63], ∀ q ∈ earlierRows k,
    q.addrMask.extractLsb' 0 5 = BitVec.allOnes 5 ∧ (q.addr.toNat % 32 = 0 ∨ q.addr.toNat % 32 = 4) ∨
    q.addrMask.extractLsb' 4 1 = BitVec.allOnes 1 ∧ q.addr.toNat / 2 ^ 4 % 2 ^ 1 = 1 ∨
    q.addrMask.extractLsb' 8 1 = BitVec.allOnes 1 ∧ q.addr.toNat / 2 ^ 8 % 2 ^ 1 = 1 := by
  decide

/-- Before `UNMAPPED`: every such row fixes the address to be in one of the blocks. -/
theorem earlierRows_mapped : ∀ k ∈ [64, 65], ∀ q ∈ earlierRows k, ∃ b ∈ mappedBlocks,
    b.1 ≤ q.addr.toNat ∧ q.addr.toNat + (~~~q.addrMask).toNat < b.1 + b.2 := by
  decide

/-- A command of another code, a hole or an unmapped address contradicts what the earlier rows fix. -/
theorem not_selects_earlierRow {i : Instr} {t : BitVec 67} (h : i.HasWord t) {q : OpcodeRow}
    (hq : q ∈ earlierRows i.ctorIdx) : ¬ q.Selects t := by
  intro hsel
  obtain ⟨hqaddr, hqcode⟩ := selects_earlierRow hq hsel
  have hwf := h.wf
  have haddr := h.addr
  have hcode := h.code
  clear h hsel
  generalize t.extractLsb' 32 32 = x at *
  cases i <;> dsimp only [Instr.ctorIdx, Instr.access, readAccess, writeAccess] at *
  case tctlOther n w v =>
    simp only [Instr.wf, Bool.and_eq_true, decide_eq_true_eq] at hwf
    have hrows : ∀ q ∈ earlierRows 6, commandCode q.codeMask = BitVec.allOnes 8 ∧
        (commandCode q.code = cfg0.timerStartPattern ∨ commandCode q.code = cfg0.timerStopPattern) := by decide
    obtain ⟨hmask, hcodes⟩ := hrows q hq
    rw [← commandCode_of_and_eq hqcode hmask, ← hcode rfl] at hcodes
    obtain ⟨⟨_, hstart⟩, hstop⟩ := hwf
    exact hcodes.elim hstart hstop
  case fcmdOther w v =>
    simp [Instr.wf] at hwf
    have hrows : ∀ q ∈ earlierRows 28, commandCode q.codeMask = BitVec.allOnes 8 ∧
        (commandCode q.code = cfg0.fcmdClear ∨ commandCode q.code = cfg0.fcmdWrite ∨
          commandCode q.code = cfg0.fcmdErase ∨ commandCode q.code = cfg0.fcmdBlank) := by decide
    obtain ⟨hmask, hcodes⟩ := hrows q hq
    rw [← commandCode_of_and_eq hqcode hmask, ← hcode rfl] at hcodes
    simp [hwf] at hcodes
  case noregRTimer addr _ | noregWTimer addr _ _ =>
    simp only [Instr.wf, Bool.and_eq_true] at hwf
    obtain ⟨n, hn, off, hoff, hhole, hfree⟩ := timerHole_cfg0 (addr := addr) (by simp only [hwf])
    obtain ⟨hmask, hoffs⟩ := earlierRows_channelRegister _ (by decide) q hq
    have hlow := field_of_and_eq (lo := 0) hqaddr hmask
    omega
  case noregRSerial addr _ | noregWSerial addr _ _ =>
    simp only [Instr.wf, Bool.and_eq_true] at hwf
    obtain ⟨ch, hch, off, hoff, hhole, hfree⟩ := serialHole_cfg0 (addr := addr) (by simp only [hwf])
    obtain ⟨hmask, hoffs⟩ := earlierRows_channelRegister _ (by decide) q hq
    have hlow := field_of_and_eq (lo := 0) hqaddr hmask
    omega
  case noregRFlashc addr _ | noregWFlashc addr _ _ =>
    simp only [Instr.wf, Bool.and_eq_true] at hwf
    obtain ⟨off, hoff, hhole, hfree⟩ := flashcHole_cfg0 (addr := addr) (by simp only [hwf])
    obtain ⟨hmask, hoffs⟩ := earlierRows_flashcRegister _ (by decide) q hq
    have hlow := field_of_and_eq (lo := 0) hqaddr hmask
    omega
  case noregRCipher addr _ | noregWCipher addr _ _ =>
    simp only [Instr.wf, Bool.and_eq_true] at hwf
    obtain ⟨off, hoff, hhole, hfree⟩ := cipherHole_cfg0 (addr := addr) (by simp only [hwf])
    obtain ⟨hmask, hoffs⟩ := earlierRows_cipherRegister _ (by decide) q hq
    have hlow := field_of_and_eq (lo := 0) hqaddr hmask
    omega
  case noregRGpio addr _ | noregWGpio addr _ _ =>
    simp only [Instr.wf, Bool.and_eq_true] at hwf
    obtain ⟨hlo, hhi, hfree⟩ := gpioHole_cfg0 (addr := addr) (by simp only [hwf])
    obtain ⟨hmask, hoffs⟩ | ⟨hmask, hpin⟩ | ⟨hmask, hslot⟩ := earlierRows_gpio _ (by decide) q hq
    · have hlow := field_of_and_eq (lo := 0) hqaddr hmask
      omega
    · have hbit := field_of_and_eq hqaddr hmask
      omega
    · have hbit := field_of_and_eq hqaddr hmask
      omega
  case unmappedR addr _ | unmappedW addr _ _ =>
    simp only [Instr.wf, Bool.and_eq_true] at hwf
    have hfree := unmapped_cfg0 (addr := addr) (by simp only [hwf])
    obtain ⟨b, hb, hlo, hhi⟩ := earlierRows_mapped _ (by decide) q hq
    have hrange := range_of_and_eq hqaddr
    exact hfree b hb (by omega)
  all_goals simp [earlierRows_eq_nil] at hq

/-- Settles O4: a word selects the row of the operation it decodes to, and no earlier row. -/
theorem decodeAgreesWithOpcodeTable : Obligations.DecodeAgreesWithOpcodeTable := by
  intro t ht
  obtain ⟨i, hi⟩ := Option.ne_none_iff_exists'.1 (mt (decode_cfg0_eq_none_iff t).1 ht)
  have hword := hasWord_of_decode hi
  rw [hi, tableRow_eq_row (row_selects hword) fun q hq => not_selects_earlierRow hword hq, Option.map_some,
    Option.map_some, row_mnemonic]

end Sys2Proof
end

section
/-! SUPPORT. What a bus operation can write, by the unit it belongs to (R104, R168). -/

namespace Sys2Proof.Machine

/-- The line is one of the serial channel's three (R220). -/
def LineOf (c : Cfg) (ch l : Nat) : Prop := txeLine c ch = some l ∨ txcLine c ch = some l ∨ rxrLine c ch = some l

/-- What an operation of the given owner may write of the block. An operation of a serial channel records one event at
most, and no line but that event's moves. `spawnCtr` only counts the free values an arming start takes (log entry 7). -/
inductive OwnerEffect (s : State) : Option Owner → State → Prop
  | unchanged (o : Option Owner) : OwnerEffect s o s
  | timer (n : Nat) (x : TimerCh) (k : Nat) :
      OwnerEffect s (some (.timer n)) { s with timers := s.timers.set n x, spawnCtr := k }
  | serialQuiet (ch : Nat) (x : SerialCh) : OwnerEffect s (some (.serial ch)) (s.setSerial ch x)
  | serialEvent {ch : Nat} {x : SerialCh} {e : Event} {high : List Nat} (line : LineOf s.cfg ch e.line)
      (levels : ∀ k, k ≠ e.line → high.contains k = s.irqHigh.contains k) :
      OwnerEffect s (some (.serial ch))
        { s with serials := s.serials.set ch x, irqHigh := high, hist := s.hist ++ [e] }
  | flashc (f : FlashCtl) : OwnerEffect s (some .flashc) (s.setFlash f)
  | cipher (u : CipherUnit) : OwnerEffect s (some .cipher) (s.setCipher u)
  | gpio (ports : List GpioPort) (collab : CollabState) :
      OwnerEffect s (some .gpio) { s with ports := ports, collab := collab }

/-! ## Every bus operation has the effect of its owner -/

theorem startTimer_owned (n : Nat) (s : State) : OwnerEffect s (some (.timer n)) (startTimer n s) := by
  rcases startTimer_spec n s with ⟨_, e⟩ | ⟨_, _, e⟩ | ⟨_, _, e⟩ <;> rw [e]
  · exact .timer ..
  · exact .unchanged _
  · rcases spawn_spec s with ⟨_, espawn⟩ | ⟨_, espawn⟩ <;> rw [espawn] <;> exact .timer ..

section
variable {s : State} {ch : Nat} {x : SerialCh} {l : Option Nat}

/-- An assertion on a line of the channel, or on none; the lemmas of the other two operations of the bridge say the
same. -/
theorem irqAssert_owned (hl : ∀ m, l = some m → LineOf s.cfg ch m) :
    OwnerEffect s (some (.serial ch)) (irqAssert l (s.setSerial ch x)) := by
  cases l with
  | none => exact .serialQuiet ch x
  | some m => exact .serialEvent (hl m rfl) fun k hk => (irqLevel_irqAssert m k s).trans (if_neg hk)

theorem irqClear_owned (hl : ∀ m, l = some m → LineOf s.cfg ch m) :
    OwnerEffect s (some (.serial ch)) (irqClear l (s.setSerial ch x)) := by
  cases l with
  | none => exact .serialQuiet ch x
  | some m => exact .serialEvent (hl m rfl) fun k hk => (irqLevel_irqClear m k s).trans (if_neg hk)

theorem irqPulse_owned {label : Option Nat} (hl : ∀ m, l = some m → LineOf s.cfg ch m) :
    OwnerEffect s (some (.serial ch)) (irqPulse l label (s.setSerial ch x)) := by
  cases l with
  | none => exact .serialQuiet ch x
  | some m => exact .serialEvent (hl m rfl) fun k hk => (irqLevel_irqPulse m k label s).trans (if_neg hk)

end

theorem popSerial_owned (ch : Nat) (s : State) : OwnerEffect s (some (.serial ch)) (popSerial ch s) := by
  rcases popSerial_spec ch s with ⟨_, e⟩ | ⟨_, e⟩ | ⟨_, e⟩ <;> rw [e]
  · exact .unchanged _
  · exact irqClear_owned fun _ hm => .inr (.inr hm)
  · exact .serialQuiet ..

/-- A forwarded port write stays in the ports and the collaborator (R352). -/
theorem pinSet_owned (p : Nat) (dir out : Half) (x : GpioPort) (s : State) :
    OwnerEffect s (some .gpio) (pinSet p dir out (s.setPort p x)) := by
  rw [pinSet_frame]
  exact .gpio ..

theorem BusEffect.owned {s u : State} {i : Instr} (h : BusEffect s i u) : OwnerEffect s (operationOwner i) u := by
  cases h with
  | unchanged => exact .unchanged _
  | timerLatch howner => exact howner ▸ .timer ..
  | start n => exact startTimer_owned n s
  | transmit => exact irqAssert_owned fun _ hm => .inl (Option.ite_none_right_eq_some.1 hm).2
  | receive ch => exact popSerial_owned ch s
  | control => exact irqPulse_owned fun _ hm => .inr (.inl (Option.ite_none_right_eq_some.1 hm).2)
  | flashLatch howner => exact howner ▸ .flashc _
  | flashClear | flashWrite | flashErase | flashBlank => exact .flashc _
  | cipher howner => exact howner ▸ .cipher _
  | portLatch howner => exact howner ▸ .gpio ..
  | portControl => exact pinSet_owned ..

/-! ## What an operation of another owner leaves alone -/

namespace OwnerEffect

section
variable {s u : State} {o : Option Owner}

theorem timers_getElem? (h : OwnerEffect s o u) {n : Nat} (ho : o ≠ some (.timer n)) :
    u.timers[n]? = s.timers[n]? := by
  cases h with
  | timer m => exact List.getElem?_set_ne fun (e : m = n) => ho (e ▸ rfl)
  | unchanged | serialQuiet | serialEvent | flashc | cipher | gpio => rfl

theorem serials_getElem? (h : OwnerEffect s o u) {ch : Nat} (ho : o ≠ some (.serial ch)) :
    u.serials[ch]? = s.serials[ch]? := by
  cases h with
  | serialQuiet m | @serialEvent m => exact List.getElem?_set_ne fun (e : m = ch) => ho (e ▸ rfl)
  | unchanged | timer | flashc | cipher | gpio => rfl

theorem flash_eq (h : OwnerEffect s o u) (ho : o ≠ some .flashc) : u.flash = s.flash := by
  cases h with
  | flashc => exact absurd rfl ho
  | unchanged | timer | serialQuiet | serialEvent | cipher | gpio => rfl

theorem cipher_eq (h : OwnerEffect s o u) (ho : o ≠ some .cipher) : u.cipher = s.cipher := by
  cases h with
  | cipher => exact absurd rfl ho
  | unchanged | timer | serialQuiet | serialEvent | flashc | gpio => rfl

theorem ports_collab_eq (h : OwnerEffect s o u) (ho : o ≠ some .gpio) : u.ports = s.ports ∧ u.collab = s.collab := by
  cases h with
  | gpio => exact absurd rfl ho
  | unchanged | timer | serialQuiet | serialEvent | flashc | cipher => exact ⟨rfl, rfl⟩

theorem irqHigh_hist_eq (h : OwnerEffect s o u) (ho : ∀ ch, o ≠ some (.serial ch)) :
    u.irqHigh = s.irqHigh ∧ u.hist = s.hist := by
  cases h with
  | @serialEvent ch => exact absurd rfl (ho ch)
  | unchanged | timer | serialQuiet | flashc | cipher | gpio => exact ⟨rfl, rfl⟩

theorem eq_of_no_owner (h : OwnerEffect s none u) : u = s := by
  cases h
  rfl

end

section
variable {s u : State} {ch : Nat}

theorem lineOf_of_irqLevel_ne (h : OwnerEffect s (some (.serial ch)) u) {l : Nat}
    (hl : u.irqLevel l ≠ s.irqLevel l) : LineOf s.cfg ch l := by
  cases h with
  | unchanged | serialQuiet => exact absurd rfl hl
  | serialEvent hline hlevels =>
    by_contra hother
    exact hl (hlevels l fun e => hother (e ▸ hline))

theorem hist_events_lineOf (h : OwnerEffect s (some (.serial ch)) u) :
    ∃ es, u.hist = s.hist ++ es ∧ ∀ e ∈ es, LineOf s.cfg ch e.line := by
  cases h with
  | unchanged | serialQuiet => exact ⟨[], (List.append_nil _).symm, nofun⟩
  | @serialEvent _ _ e _ hline => exact ⟨[e], rfl, List.forall_mem_singleton.2 hline⟩

end

end OwnerEffect

/-- Settles O20: the operation has the effect of its owner, and that effect reaches nothing of another one. -/
theorem operationTouchesOnlyItsOwner : Obligations.OperationTouchesOnlyItsOwner := by
  intro i s t hexec
  obtain ⟨u, r, heffect, hnext⟩ := exec_effect i s
  cases hexec.symm.trans hnext
  have h := heffect.owned
  refine ⟨fun n => h.timers_getElem?, fun ch => h.serials_getElem?, h.flash_eq, h.cipher_eq, h.ports_collab_eq,
    h.irqHigh_hist_eq, fun ch ho => ?_, fun ho => ?_⟩
  · rw [ho] at h
    exact ⟨fun l => h.lineOf_of_irqLevel_ne, h.hist_events_lineOf⟩
  · rw [ho] at h
    rw [h.eq_of_no_owner, respond_resp]

end Sys2Proof.Machine
end

section
/-! Accesses that reach no register (R163 to R166, R354, R355). -/

namespace Sys2Proof.Machine

theorem readValue_zero (w : Width) : readValue w 0 = 0 := by cases w <;> rfl

theorem finishRead_zero (w : Width) (s : State) : finishRead w 0 s = .next (s.respond (.data w 0)) := by
  rw [finishRead, readValue_zero]

/-- Settles O59: each of the reads answers 0, which every width leaves 0, and each of the writes answers nothing. -/
theorem accessesToNoRegister : Obligations.AccessesToNoRegister := by
  intro addr w v s
  simp only [List.forall_mem_cons, List.not_mem_nil, false_imp_iff, implies_true, and_true]
  constructor
  · and_intros <;> exact finishRead_zero w s
  · and_intros <;> rfl

end Sys2Proof.Machine
end

section
/-! Which operation an access is, and whose: by direction, address and low data byte alone (R134, R167). -/

namespace Sys2Proof

open Machine

/-- Mnemonic and owner of an operation. -/
def Instr.kind (i : Instr) : String × Option Owner := (i.mnemonic, operationOwner i)

/-- The access of one byte with the direction, the address and the low data byte of an access. -/
def Access.byteAccess (a : Access) : Access :=
  { a with width := .b1, data := (commandCode a.data).setWidth 32 }

@[simp] theorem byteAccess_write (a : Access) : a.byteAccess.write = a.write := rfl
@[simp] theorem byteAccess_addr (a : Access) : a.byteAccess.addr = a.addr := rfl

@[simp] theorem commandCode_byteAccess (a : Access) : commandCode a.byteAccess.data = commandCode a.data := by
  simp [Access.byteAccess, commandCode, BitVec.setWidth_setWidth_of_le]

/-! ## Each unit's decoder reads direction, offset and low byte only -/

section
variable (c : Cfg) (off : Nat) (a : Access)

theorem decodeTctl_kind (n : Nat) : (decodeTctl c n a.byteAccess.width a.byteAccess.data).kind =
    (decodeTctl c n a.width a.data).kind := by
  simp only [decodeTctl_eq_ite, commandCode_byteAccess]
  split_ifs <;> rfl

theorem decodeFcmd_kind : (decodeFcmd c a.byteAccess.width a.byteAccess.data).kind =
    (decodeFcmd c a.width a.data).kind := by
  simp only [decodeFcmd_eq_ite, commandCode_byteAccess]
  split_ifs <;> rfl

theorem decodeTimer_kind (n : Nat) : (decodeTimer c n off a.byteAccess).kind = (decodeTimer c n off a).kind := by
  cases hwrite : a.write <;>
    simp only [decodeTimer, byteAccess_write, hwrite, Bool.false_eq_true, if_true, if_false]
  · split_ifs <;> rfl
  · split_ifs
    on_goal 3 => exact decodeTctl_kind c a n
    all_goals rfl

theorem decodeSerial_kind (ch : Nat) : (decodeSerial c ch off a.byteAccess).kind = (decodeSerial c ch off a).kind := by
  cases hwrite : a.write <;>
    simp only [decodeSerial, byteAccess_write, hwrite, Bool.false_eq_true, if_true, if_false]
  all_goals split_ifs <;> rfl

theorem decodeFlashc_kind : (decodeFlashc c off a.byteAccess).kind = (decodeFlashc c off a).kind := by
  cases hwrite : a.write <;>
    simp only [decodeFlashc, byteAccess_write, hwrite, Bool.false_eq_true, if_true, if_false]
  · split_ifs <;> rfl
  · split_ifs
    on_goal 1 => exact decodeFcmd_kind c a
    all_goals rfl

theorem decodeFlashd_kind : (decodeFlashd off a.byteAccess).kind = (decodeFlashd off a).kind := by
  rw [decodeFlashd, decodeFlashd, byteAccess_write]
  cases a.write <;> rfl

theorem decodeCipher_kind : (decodeCipher c off a.byteAccess).kind = (decodeCipher c off a).kind := by
  cases hwrite : a.write <;>
    simp only [decodeCipher, byteAccess_write, hwrite, Bool.false_eq_true, if_true, if_false]
  all_goals split_ifs <;> rfl

theorem decodeGpio_kind : (decodeGpio c off a.byteAccess).kind = (decodeGpio c off a).kind := by
  cases hwrite : a.write <;>
    simp only [decodeGpio, byteAccess_write, hwrite, Bool.false_eq_true, if_true, if_false]
  all_goals split_ifs <;> rfl

/-- The window is found by the address, and its owner's decoder keeps the kind. -/
theorem decodeAccess_kind : (decodeAccess c a.byteAccess).kind = (decodeAccess c a).kind := by
  unfold decodeAccess
  rw [byteAccess_addr, byteAccess_write]
  cases windowOf c a.addr with
  | none => cases a.write <;> rfl
  | some win =>
    obtain ⟨base, size, owner⟩ := win
    cases owner with
    | timer n => exact decodeTimer_kind c _ a n
    | serial ch => exact decodeSerial_kind c _ a ch
    | flashc => exact decodeFlashc_kind c _ a
    | cipher => exact decodeCipher_kind c _ a
    | gpio => exact decodeGpio_kind c _ a
    | flashd => exact decodeFlashd_kind _ a

end

/-- The byte access of a transaction word, by the fields of the word. -/
theorem byteAccess_of_accessOfTxn {c : Cfg} {t : Txn} {a : Access} (h : accessOfTxn c t = some a) :
    a.byteAccess = ⟨txnWrite c t, .b1, txnAddr c t,
      if txnWrite c t then ((txnData t).setWidth 8).setWidth 32 else 0⟩ := by
  obtain ⟨_, _, _, haddr, _, hwrite, hdata⟩ := accessOfTxn_some h
  rw [Access.byteAccess, hdata, hwrite, haddr]
  cases txnWrite c t
  · rfl
  · simp only [if_true, commandCode_canonicalData]
    rfl

/-- Settles O5: the two words have one byte access, and an operation has the kind of its byte access. -/
theorem decodeDependsOnDirectionAddressLowByte : Obligations.DecodeDependsOnDirectionAddressLowByte := by
  intro c t t' i i' hi hi' hwrite haddr hdata
  obtain ⟨a, ha, rfl⟩ := Option.map_eq_some_iff.1 hi
  obtain ⟨a', ha', rfl⟩ := Option.map_eq_some_iff.1 hi'
  have hbyte : a.byteAccess = a'.byteAccess := by
    rw [byteAccess_of_accessOfTxn ha, byteAccess_of_accessOfTxn ha', hwrite, haddr, hdata]
  have hkind : (decodeAccess c a).kind = (decodeAccess c a').kind := by
    rw [← decodeAccess_kind c a, hbyte, decodeAccess_kind c a']
  exact Prod.mk.inj hkind

end Sys2Proof
end

section
/-! SUPPORT. Sequences of bus operations and of steps, one element at a time, and what a timer channel's operations do,
one equation per case (R181 to R191). -/

namespace Sys2Proof.Machine

/-! ## Sequences -/

theorem execAll_cons {i : Instr} {is : List Instr} {s u : State} (h : exec i s = .next u) :
    execAll (i :: is) s = execAll is u := by
  rw [execAll, h]

theorem execAll_singleton {i : Instr} {s u : State} (h : exec i s = .next u) : execAll [i] s = .next u := by
  rw [execAll_cons h, execAll]

/-- A run that completes is a first step that is taken and the rest of the run. -/
theorem stepN_succ_spec {k : Nat} {s t : State} (h : stepN (k + 1) s = .next t) :
    ∃ u, step s = .next u ∧ stepN k u = .next t := by
  rw [stepN] at h
  split at h
  · next u hu => exact ⟨u, hu, h⟩
  · cases h
  · cases h

/-! ## Channels by number -/

@[simp] theorem respond_timer (s : State) (r : Resp) (n : Nat) : (s.respond r).timer n = s.timer n := rfl

theorem timer_of_getElem? {s t : State} {n : Nat} (h : t.timers[n]? = s.timers[n]?) : t.timer n = s.timer n := by
  simp [State.timer, List.getD_eq_getElem?_getD, h]

theorem setTimer_timers_getElem?_ne (s : State) (t : TimerCh) {n m : Nat} (h : m ≠ n) :
    (s.setTimer n t).timers[m]? = s.timers[m]? :=
  List.getElem?_set_ne h.symm

/-! ## Bus operations of a timer channel -/

section
variable (n : Nat) (w : Width) (v : Word) (s : State)

theorem exec_tcntW : exec (.tcntW n w v) s =
    .next ((s.setTimer n { s.timer n with tcnt := storedReload (writeOperand 16 w v) }).respond .done) := rfl

theorem exec_tcntR : exec (.tcntR n w) s =
    .next (s.respond (.data w (readValue w ((s.timer n).tcnt.setWidth 32)))) := rfl

theorem exec_tmodW : exec (.tmodW n w v) s =
    .next ((s.setTimer n { s.timer n with tmod := writeOperand 16 w v }).respond .done) := rfl

theorem exec_tmodR : exec (.tmodR n w) s =
    .next (s.respond (.data w (readValue w ((s.timer n).tmod.setWidth 32)))) := rfl

theorem exec_tctlStart : exec (.tctlStart n w v) s = .next ((startTimer n s).respond .done) := rfl

theorem exec_tctlOther : exec (.tctlOther n w v) s = .next (s.respond .done) := rfl

theorem exec_tctlR : exec (.tctlR n w) s = .next (s.respond (.data w 0)) := finishRead_zero w s

end

section
variable {n : Nat} {s : State}

theorem exec_tctlStop_of_running (w : Width) (v : Word) (h : (s.timer n).running = true) :
    exec (.tctlStop n w v) s = .next ((s.setTimer n { s.timer n with stopReq := true }).respond .done) :=
  congrArg finishWrite (if_pos h)

theorem exec_tctlStop_of_idle (w : Width) (v : Word) (h : (s.timer n).running = false) :
    exec (.tctlStop n w v) s = .next (s.respond .done) :=
  congrArg finishWrite (if_neg (Bool.eq_false_iff.1 h))

theorem startTimer_of_running (h : (s.timer n).running = true) :
    startTimer n s = s.setTimer n { s.timer n with stopReq := false } := by
  simp [startTimer, h]

theorem startTimer_of_reserved (h : (s.timer n).running = false)
    (hfreq : timerFreqValid s.cfg (s.timer n).tmod = false) : startTimer n s = s := by
  simp [startTimer, h, hfreq]

/-- An arming start (R186): the agent, where it came into being, is at its check. -/
theorem startTimer_of_idle (h : (s.timer n).running = false)
    (hfreq : timerFreqValid s.cfg (s.timer n).tmod = true) :
    startTimer n s = (spawn s).2.setTimer n
      { s.timer n with running := true, stopReq := false, tphase := if (spawn s).1 then .check else .off } := by
  simp [startTimer, h, hfreq]

end

theorem timerFreqValid_eq_true_iff {c : Cfg} {m : Half} : timerFreqValid c m = true ↔ timerDiv c m ≠ 0 := by
  simp [timerFreqValid]

theorem timerFreqValid_eq_false_iff {c : Cfg} {m : Half} : timerFreqValid c m = false ↔ timerDiv c m = 0 := by
  simp [timerFreqValid]

/-! ## The steps of a timing agent -/

section
variable {n : Nat} {s : State}

theorem agentTCheck_of_check (h : (s.timer n).tphase = .check) :
    agentTCheck n s = .next (s.setTimer n (checkedTimer s.cfg (s.timer n))) := by
  simp [agentTCheck, h]

theorem agentTCheck_of_not_check (h : (s.timer n).tphase ≠ .check) : agentTCheck n s = .refused .notEnabled := by
  unfold agentTCheck
  split
  · next hp => exact absurd hp h
  · rfl

theorem agentTExpire_of_sleep {i : Nat} (h : (s.timer n).tphase = .sleep i) : agentTExpire n s =
    .next ((irqPulse (timerLineOf s.cfg n) (some i) s).setTimer n (expiredTimer s.cfg (s.timer n))) := by
  simp [agentTExpire, h]

theorem agentTExpire_of_not_sleep (h : ∀ i, (s.timer n).tphase ≠ .sleep i) :
    agentTExpire n s = .refused .notEnabled := by
  unfold agentTExpire
  split
  · next i hp => exact absurd hp (h i)
  · rfl

theorem checkedTimer_of_stop {c : Cfg} {t : TimerCh} (h : t.stopReq = true) :
    checkedTimer c t = { t with running := false, stopReq := false, tphase := .off } := by
  simp [checkedTimer, endedTimer, h]

theorem checkedTimer_of_reserved {c : Cfg} {t : TimerCh} (h : t.stopReq = false)
    (hfreq : timerFreqValid c t.tmod = false) : checkedTimer c t = { t with running := false, tphase := .off } := by
  simp [checkedTimer, h, hfreq]

theorem checkedTimer_of_valid {c : Cfg} {t : TimerCh} (h : t.stopReq = false)
    (hfreq : timerFreqValid c t.tmod = true) :
    checkedTimer c t = { t with tphase := .sleep (timerIntervalUs c t.tcnt t.tmod) } := by
  simp [checkedTimer, h, hfreq]

theorem expiredTimer_of_repeat {c : Cfg} {t : TimerCh} (h : repeatMode c t.tmod = true) :
    expiredTimer c t = { t with tphase := .check } := by
  simp [expiredTimer, h]

theorem expiredTimer_of_one_shot {c : Cfg} {t : TimerCh} (h : repeatMode c t.tmod = false) :
    expiredTimer c t = { t with running := false, stopReq := false, tphase := .off } := by
  simp [expiredTimer, endedTimer, h]

end

end Sys2Proof.Machine
end

section
/-! The interval of a timer channel at CFG0 (R185, R451). -/

namespace Sys2Proof.Machine

theorem bitField_eq_extractLsb' (m : Half) (hi lo : Nat) :
    bitField m hi lo = (m.extractLsb' lo (hi - lo + 1)).toNat := by
  rw [bitField, BitVec.extractLsb'_toNat, Nat.shiftRight_eq_div_pow]

/-- `DIV_TABLE` of CFG0: six powers of two, and two reserved entries. -/
theorem divTable_cfg0 : ∀ sel : BitVec 3,
    cfg0.divTable.getD sel.toNat 0 = if sel = 6 ∨ sel = 7 then 0 else 2 ^ sel.toNat := by decide

theorem timerDiv_cfg0 (tmod : Half) : timerDiv cfg0 tmod =
    if tmod.extractLsb' 4 3 = 6 ∨ tmod.extractLsb' 4 3 = 7 then 0 else 2 ^ (tmod.extractLsb' 4 3).toNat := by
  rw [timerDiv, bitField_eq_extractLsb']
  exact divTable_cfg0 _

theorem timerFreqValid_cfg0 (tmod : Half) :
    timerFreqValid cfg0 tmod = true ↔ tmod.extractLsb' 4 3 ≠ 6 ∧ tmod.extractLsb' 4 3 ≠ 7 := by
  rw [timerFreqValid_eq_true_iff, timerDiv_cfg0, ← not_or]
  split
  · next h => exact iff_of_false (fun h0 => h0 rfl) (not_not_intro h)
  · next h => exact iff_of_true (Nat.two_pow_pos _).ne' h

/-- `F_BASE_HZ` of CFG0 is one megahertz, so that a tick of the base clock is a microsecond. -/
theorem timerIntervalUs_cfg0 (tcnt tmod : Half) :
    timerIntervalUs cfg0 tcnt tmod = reload tcnt * timerDiv cfg0 tmod :=
  Nat.mul_div_cancel _ (by decide : 0 < 1000000)

theorem reload_bounds (tcnt : Half) : 1 ≤ reload tcnt ∧ reload tcnt ≤ 65535 := by
  unfold reload
  split
  · decide
  · bv_omega

/-- A selector that is not reserved divides by 32 at most. -/
theorem two_pow_selector_bounds : ∀ sel : BitVec 3, sel ≠ 6 ∧ sel ≠ 7 →
    1 ≤ 2 ^ sel.toNat ∧ 2 ^ sel.toNat ≤ 32 := by
  decide

/-- Settles O25: reload and divisor, each with its bounds, and a base clock of one tick per microsecond. -/
theorem intervalAtDefaultConfiguration : Obligations.IntervalAtDefaultConfiguration := by
  intro tcnt tmod
  refine ⟨timerFreqValid_cfg0 tmod, fun hvalid => ?_⟩
  have hsel := (timerFreqValid_cfg0 tmod).1 hvalid
  have hinterval : timerIntervalUs cfg0 tcnt tmod = reload tcnt * 2 ^ (tmod.extractLsb' 4 3).toNat := by
    rw [timerIntervalUs_cfg0, timerDiv_cfg0, if_neg (not_or.2 hsel)]
  obtain ⟨hreload, hreload'⟩ := reload_bounds tcnt
  obtain ⟨hdiv, hdiv'⟩ := two_pow_selector_bounds _ hsel
  rw [hinterval]
  exact ⟨rfl, Nat.mul_le_mul hreload hdiv, Nat.mul_le_mul hreload' hdiv'⟩

end Sys2Proof.Machine
end

section
/-! The bus operations of a timer channel and the steps of its agent, case by case (R181 to R191, R196, R197). -/

namespace Sys2Proof.Machine

/-- Settles O22: the two writes, with the conversion to 16 bits written out. -/
theorem timerLatchWrites : Obligations.TimerLatchWrites :=
  fun n w v s => ⟨exec_tcntW n w v s, exec_tmodW n w v s⟩

/-- Settles O23: the three reads. -/
theorem timerReads : Obligations.TimerReads :=
  fun n w s => ⟨exec_tcntR n w s, exec_tmodR n w s, exec_tctlR n w s⟩

theorem storedReload_setWidth (x : Word) : (storedReload (x.setWidth 16)).setWidth 32 =
    if x.toNat % 65536 = 0 then (0xFFFF : Word) else (x.setWidth 16).setWidth 32 := by
  have hzero : x.setWidth 16 = 0 ↔ x.toNat % 65536 = 0 := by
    rw [← BitVec.toNat_inj, BitVec.toNat_setWidth]
    rfl
  simp only [storedReload, hzero]
  split <;> rfl

/-- Settles O24: a channel that is there reads as it was last written, and the write reaches no other. -/
theorem timerLatchesReadBack : Obligations.TimerLatchesReadBack := by
  intro n w w' v s hn
  constructor
  · refine ⟨_, (execAll_cons (exec_tcntW n w v s)).trans (execAll_singleton (exec_tcntR n w' _)), ?_,
      fun m hm => setTimer_timers_getElem?_ne s _ hm⟩
    rw [respond_resp, respond_timer, timer_setTimer_self s n _ hn, writeOperand, storedReload_setWidth]
    rfl
  · refine ⟨_, (execAll_cons (exec_tmodW n w v s)).trans (execAll_singleton (exec_tmodR n w' _)), ?_,
      fun m hm => setTimer_timers_getElem?_ne s _ hm⟩
    rw [respond_resp, respond_timer, timer_setTimer_self s n _ hn]
    rfl

/-- Settles O26: a start on a running channel, with a reserved selector, and the two kinds of arming start. -/
theorem startCommand : Obligations.StartCommand := by
  intro n w v s
  rw [exec_tctlStart, ← timerFreqValid_eq_false_iff, ← timerFreqValid_eq_true_iff]
  refine ⟨fun hrun => ?running, fun hidle hfreq => ?reserved, fun hidle hfreq hspawn => ?armed,
    fun hidle hfreq hspawn => ?spawned⟩
  case running => rw [startTimer_of_running hrun]
  case reserved => rw [startTimer_of_reserved hidle hfreq]
  case armed =>
    rw [startTimer_of_idle hidle hfreq, spawn_of_cannot_fail s hspawn]
    rfl
  case spawned => rw [startTimer_of_idle hidle hfreq, spawn_of_may_fail s hspawn]

/-- Settles O27: the stop command on a running and on an idle channel, and every other value. -/
theorem stopAndOtherCommands : Obligations.StopAndOtherCommands :=
  fun n w v s => ⟨exec_tctlStop_of_running w v, exec_tctlStop_of_idle w v, exec_tctlOther n w v s⟩

/-- Settles O28: the two commands leave the channel's record with its stop request withdrawn, and nothing else. -/
theorem stopThenStartGoesOn : Obligations.StopThenStartGoesOn := by
  intro n w w' v v' s hn hrun
  obtain ⟨u, hu, htimer, hlength, hhist, hothers⟩ : ∃ u, exec (.tctlStop n w v) s = .next u ∧
      u.timer n = { s.timer n with stopReq := true } ∧ u.timers.length = s.timers.length ∧ u.hist = s.hist ∧
      ∀ m, m ≠ n → u.timers[m]? = s.timers[m]? :=
    ⟨_, exec_tctlStop_of_running w v hrun, by simp [hn], by simp, rfl, fun m => setTimer_timers_getElem?_ne s _⟩
  have hstart := exec_tctlStart n w' v' u
  rw [startTimer_of_running (by rw [htimer]; exact hrun), htimer] at hstart
  refine ⟨_, (execAll_cons hu).trans (execAll_singleton hstart), ?_⟩
  rw [respond_timer, timer_setTimer_self u n _ (hlength ▸ hn)]
  exact ⟨hrun, rfl, rfl, rfl, rfl, hhist, fun m hm => (setTimer_timers_getElem?_ne u _ hm).trans (hothers m hm)⟩

/-- Settles O29: each step where its agent is at it, by the channel it leaves, and refused elsewhere. -/
theorem timingAgentSteps : Obligations.TimingAgentSteps := by
  intro n s
  rw [← timerFreqValid_eq_false_iff, ← timerFreqValid_eq_true_iff]
  refine ⟨fun hp hstop => ?_, fun hp hgo hfreq => ?_, fun hp hgo hfreq => ?_, agentTCheck_of_not_check,
    fun i hp hrepeat => ?_, fun i hp honce => ?_, agentTExpire_of_not_sleep⟩
  · rw [agentTCheck_of_check hp, checkedTimer_of_stop hstop]
  · rw [agentTCheck_of_check hp, checkedTimer_of_reserved hgo hfreq]
  · rw [agentTCheck_of_check hp, checkedTimer_of_valid hgo hfreq]
  · rw [agentTExpire_of_sleep hp, expiredTimer_of_repeat hrepeat]
  · rw [agentTExpire_of_sleep hp, expiredTimer_of_one_shot honce]

end Sys2Proof.Machine
end

section
/-! SUPPORT. A line of a timer channel has no other source (R12 (f), R386), and what reaches a timer channel. -/

namespace Sys2Proof.Machine

/-! ## One line, one source -/

theorem timerLineOf_eq_some {c : Cfg} {n l : Nat} (h : timerLineOf c n = some l) :
    c.timerLine[n]? = some (some l) := by
  rw [timerLineOf, List.getD_eq_getElem?_getD] at h
  cases hentry : c.timerLine[n]? with
  | none => simp [hentry] at h
  | some o => simpa [hentry] using h

theorem timerLineOf_inj {c : Cfg} (hc : c.LinesOk) {m n l : Nat} (hm : timerLineOf c m = some l)
    (hn : timerLineOf c n = some l) : m = n := by
  obtain ⟨htimers, _⟩ := List.nodup_append.1 hc
  have hdistinct := List.pairwise_iff_getElem.1 (List.pairwise_filterMap.1 htimers)
  obtain ⟨hm', em⟩ := List.getElem?_eq_some_iff.1 (timerLineOf_eq_some hm)
  obtain ⟨hn', en⟩ := List.getElem?_eq_some_iff.1 (timerLineOf_eq_some hn)
  obtain hlt | heq | hgt := Nat.lt_trichotomy m n
  · exact absurd rfl (hdistinct m n hm' hn' hlt l em l en)
  · exact heq
  · exact absurd rfl (hdistinct n m hn' hm' hgt l en l em)

theorem LineOf.linesOf {c : Cfg} {ch l : Nat} (h : LineOf c ch l) :
    ∃ x, linesOf c ch = some x ∧ l ∈ [x.txe, x.txc, x.rxr] := by
  obtain h | h | h := h <;> obtain ⟨x, hx, rfl⟩ := Option.map_eq_some_iff.1 h <;> exact ⟨x, hx, by simp⟩

theorem linesOf_entry {c : Cfg} {ch : Nat} {x : SerialLines} (h : linesOf c ch = some x) :
    some x ∈ c.serialLines := by
  unfold linesOf at h
  split at h
  · rw [List.getD_eq_getElem?_getD] at h
    cases hentry : c.serialLines[ch]? with
    | none => simp [hentry] at h
    | some o => exact List.mem_of_getElem? (i := ch) (by simpa [hentry] using h)
  · cases h

/-- No serial channel has the line of a timer channel. -/
theorem LineOf.ne_timerLine {c : Cfg} (hc : c.LinesOk) {ch n k l : Nat} (hk : LineOf c ch k)
    (hl : timerLineOf c n = some l) : k ≠ l := by
  obtain ⟨_, _, hdisjoint⟩ := List.nodup_append.1 hc
  obtain ⟨x, hx, hmem⟩ := hk.linesOf
  exact (hdisjoint l (List.mem_filterMap.2 ⟨some l, List.mem_of_getElem? (timerLineOf_eq_some hl), rfl⟩)
    k (List.mem_flatMap.2 ⟨some x, linesOf_entry hx, hmem⟩)).symm

/-! ## Events on the line of a timer channel -/

section
variable {s s' : State} {n l : Nat}

/-- A bus operation records no event on the line of a timer channel. -/
theorem OwnerEffect.no_event_on_timerLine {o : Option Owner} (h : OwnerEffect s o s') (hc : s.cfg.LinesOk)
    (hl : timerLineOf s.cfg n = some l) : ∃ es, s'.hist = s.hist ++ es ∧ ∀ e ∈ es, e.line ≠ l := by
  by_cases ho : ∃ ch, o = some (.serial ch)
  · obtain ⟨ch, rfl⟩ := ho
    obtain ⟨es, hes, hlines⟩ := h.hist_events_lineOf
    exact ⟨es, hes, fun e he => (hlines e he).ne_timerLine hc hl⟩
  · obtain ⟨_, hhist⟩ := h.irqHigh_hist_eq (not_exists.1 ho)
    exact ⟨[], by rw [hhist, List.append_nil], nofun⟩

/-- Only the expiry of its own agent records an event on the line of a timer channel (R389). -/
theorem ActionEffect.no_event_on_timerLine {a : Action} (h : ActionEffect s a s') (ha : a ≠ .tExpire n)
    (hc : s.cfg.LinesOk) (hl : timerLineOf s.cfg n = some l) :
    ∃ es, s'.hist = s.hist ++ es ∧ ∀ e ∈ es, e.line ≠ l := by
  cases h with
  | bus _ heffect => exact heffect.owned.no_event_on_timerLine hc hl
  | check | collaborator => exact ⟨[], (List.append_nil _).symm, nofun⟩
  | expire m us =>
    refine ⟨_, irqPulse_hist .., fun e he hline => ?_⟩
    obtain ⟨k, hk, rfl⟩ := Option.map_eq_some_iff.1 (Option.mem_toList.1 he)
    have hkl : k = l := hline
    exact ha (congrArg _ (timerLineOf_inj hc (hkl ▸ hk) hl))
  | @receivePath _ ch _ _ hrxr =>
    refine ⟨_, irqAssert_hist .., fun e he => ?_⟩
    obtain ⟨k, hk, rfl⟩ := Option.map_eq_some_iff.1 (Option.mem_toList.1 he)
    obtain hnone | hrxr := hrxr
    · cases hnone.symm.trans hk
    · exact LineOf.ne_timerLine hc (.inr (.inr (hrxr.symm.trans hk))) hl

end

/-! ## What reaches a timer channel -/

/-- The reads of a timer channel have no side effect (R182, R184, R189). -/
theorem exec_timer_read {c : Cfg} {i : Instr} {n : Nat} (howner : operationOwner i = some (.timer n))
    (hread : (i.access c).write = false) (s : State) : ∃ r, exec i s = .next (s.respond r) := by
  cases i with
  | tcntR | tmodR | tctlR => exact ⟨_, rfl⟩
  | tcntW | tmodW | tctlStart | tctlStop | tctlOther => cases hread
  | _ => cases howner

/-- Only a write to the channel and the two steps of its agent reach a timer channel. -/
theorem perform_timer {s s' : State} {a : Action} {n : Nat} (e : perform a s = .next s')
    (hwrite : ¬ a.writesTimer s.cfg n) (hcheck : a ≠ .tCheck n) (hexpire : a ≠ .tExpire n) :
    s'.timer n = s.timer n := by
  cases perform_effect e with
  | @bus t i u r hop heffect =>
    by_cases howner : operationOwner i = some (.timer n)
    · have hread : (i.access s.cfg).write = false := by
        rw [Bool.eq_false_iff]
        exact fun h => hwrite ⟨i, hop, howner, h⟩
      obtain ⟨r', hr⟩ := exec_timer_read howner hread s
      rw [perform_bus, busAccess_of_decode hop, hr] at e
      exact (congrArg (State.timer · n) (Host.Outcome.next.inj e)).symm
    · exact timer_of_getElem? (heffect.owned.timers_getElem? howner)
  | check m => exact timer_setTimer_ne s m n _ fun hm => hcheck (congrArg _ hm)
  | expire m us =>
    rw [timer_setTimer_ne _ m n _ fun hm => hexpire (congrArg _ hm), irqPulse_timer]
  | receivePath => rw [irqAssert_timer, setSerial_timer]
  | collaborator => rfl

end Sys2Proof.Machine
end

section
/-! The events on the line of an armed timer channel (R200): what an agent sleeps for is the interval of the latches,
and both stay as they are until the channel is written. -/

namespace Sys2Proof.Machine

/-! ## A channel that keeps its interval -/

/-- The interval of the channel's latches is `us`, and where its agent sleeps it sleeps for that. -/
def TimerCh.KeepsInterval (c : Cfg) (us : Nat) (t : TimerCh) : Prop :=
  timerIntervalUs c t.tcnt t.tmod = us ∧ ∀ i, t.tphase = .sleep i → i = us

theorem TimerCh.KeepsInterval.checked {c : Cfg} {us : Nat} {t : TimerCh} (h : t.KeepsInterval c us) :
    (checkedTimer c t).KeepsInterval c us := by
  obtain ⟨hlatches, _⟩ := h
  rcases checkedTimer_spec c t with ⟨_, e⟩ | ⟨_, _, e⟩ | ⟨_, _, e⟩ <;> rw [e]
  · exact ⟨hlatches, nofun⟩
  · exact ⟨hlatches, fun i hi => (TPhase.sleep.inj hi).symm.trans hlatches⟩
  · exact ⟨hlatches, nofun⟩

theorem TimerCh.KeepsInterval.expired {c : Cfg} {us : Nat} {t : TimerCh} (h : t.KeepsInterval c us) :
    (expiredTimer c t).KeepsInterval c us := by
  obtain ⟨hlatches, _⟩ := h
  rcases expiredTimer_spec c t with ⟨_, e⟩ | ⟨_, e⟩ <;> rw [e] <;> exact ⟨hlatches, nofun⟩

theorem TimerCh.KeepsInterval.setTimer {c : Cfg} {s : State} {us n : Nat} {t : TimerCh}
    (h : (s.timer n).KeepsInterval c us) (ht : t.KeepsInterval c us) :
    ((s.setTimer n t).timer n).KeepsInterval c us := by
  obtain e | ⟨_, e⟩ := timer_setTimer_cases s n n t <;> rw [e]
  · exact h
  · exact ht

/-! ## Every action and every run -/

/-- On line `l` the event is the pulse labelled `us`. -/
def Event.PulsesOn (l us : Nat) (e : Event) : Prop := e.line = l → e = .pulse l (some us)

section
variable {n l us : Nat}

/-- An action that does not write the channel keeps its interval, and what it records on the channel's line is the
labelled pulse. -/
theorem perform_keepsInterval {s s' : State} {a : Action} (e : perform a s = .next s') (hc : s.cfg.LinesOk)
    (hl : timerLineOf s.cfg n = some l) (hwrite : ¬ a.writesTimer s.cfg n)
    (h : (s.timer n).KeepsInterval s.cfg us) :
    (s'.timer n).KeepsInterval s.cfg us ∧ ∃ es, s'.hist = s.hist ++ es ∧ ∀ e ∈ es, e.PulsesOn l us := by
  by_cases hexpire : a = .tExpire n
  · subst hexpire
    obtain ⟨i, hp, rfl⟩ := agentTExpire_spec e
    obtain rfl := h.2 i hp
    refine ⟨?_, [.pulse l (some i)], by rw [hl]; rfl, List.forall_mem_singleton.2 fun _ => rfl⟩
    exact .setTimer ((irqPulse_timer ..).symm ▸ h) h.expired
  · have heffect := perform_effect e
    obtain ⟨es, hes, hlines⟩ := heffect.no_event_on_timerLine hexpire hc hl
    refine ⟨?_, es, hes, fun e he hline => absurd hline (hlines e he)⟩
    by_cases hcheck : a = .tCheck n
    · subst hcheck
      obtain ⟨_, rfl⟩ := agentTCheck_spec e
      exact h.setTimer h.checked
    · rw [perform_timer e hwrite hcheck hexpire]
      exact h

theorem step_keepsInterval {s s' : State} (e : step s = .next s') (hc : s.cfg.LinesOk)
    (hl : timerLineOf s.cfg n = some l) (hwrite : ∀ a ∈ s.schedule, ¬ a.writesTimer s.cfg n)
    (h : (s.timer n).KeepsInterval s.cfg us) :
    (s'.timer n).KeepsInterval s.cfg us ∧ ∃ es, s'.hist = s.hist ++ es ∧ ∀ e ∈ es, e.PulsesOn l us := by
  obtain rfl | ⟨a, rest, hs, ha⟩ := step_spec e
  · exact ⟨h, [], (List.append_nil _).symm, nofun⟩
  · have hmem : a ∈ s.schedule := by rw [hs]; exact List.mem_cons_self
    exact perform_keepsInterval (s := { s with schedule := rest }) ha hc hl (hwrite a hmem) h

/-- As long as nothing scheduled writes the channel, a run records only labelled pulses on its line (R200). -/
theorem stepN_pulses {k : Nat} {s s' : State} (e : stepN k s = .next s') (hc : s.cfg.LinesOk)
    (hl : timerLineOf s.cfg n = some l) (hwrite : ∀ a ∈ s.schedule, ¬ a.writesTimer s.cfg n)
    (h : (s.timer n).KeepsInterval s.cfg us) : ∃ es, s'.hist = s.hist ++ es ∧ ∀ e ∈ es, e.PulsesOn l us := by
  induction k generalizing s with
  | zero =>
    cases e
    exact ⟨[], (List.append_nil _).symm, nofun⟩
  | succ k ih =>
    obtain ⟨u, hu, hrest⟩ := stepN_succ_spec e
    obtain ⟨hcfg, hschedule, _⟩ := agentsLeaveFlashCipherPortsAlone s u hu
    obtain ⟨hkeeps, es, hes, hpulses⟩ := step_keepsInterval hu hc hl hwrite h
    obtain ⟨es', hes', hpulses'⟩ := ih hrest (hcfg ▸ hc) (hcfg ▸ hl)
      (fun a ha => hcfg ▸ hwrite a (List.mem_of_mem_tail (hschedule ▸ ha))) (hcfg ▸ hkeeps)
    exact ⟨es ++ es', by rw [hes', hes, List.append_assoc], List.forall_mem_append.2 ⟨hpulses, hpulses'⟩⟩

end

/-! ## Arming a channel -/

/-- A written 0 and the 0xFFFF stored for it stand for the same reload (R181, R185). -/
theorem reload_storedReload (x : Half) : reload (storedReload x) = reload x := by
  by_cases hx : x = 0
  · subst hx
    rfl
  · rw [storedReload, if_neg hx]

theorem timerIntervalUs_storedReload (c : Cfg) (x m : Half) :
    timerIntervalUs c (storedReload x) m = timerIntervalUs c x m := by
  rw [timerIntervalUs, reload_storedReload, timerIntervalUs]

/-- Whether the agent comes into being depends on the configuration and the count of free values only (R191). -/
theorem spawn_fst_congr {s t : State} (hcfg : t.cfg = s.cfg) (hctr : t.spawnCtr = s.spawnCtr) :
    (spawn t).1 = (spawn s).1 := by
  rw [spawn, spawn, hcfg, hctr]
  split <;> rfl

/-- The two latch writes on a channel that is there. -/
theorem execAll_latches {s : State} {n : Nat} (w1 w2 : Width) (v m : Word) (is : List Instr)
    (hn : n < s.timers.length) : ∃ u, execAll (.tcntW n w1 v :: .tmodW n w2 m :: is) s = execAll is u ∧
      u.cfg = s.cfg ∧ u.hist = s.hist ∧ u.spawnCtr = s.spawnCtr ∧ u.timers.length = s.timers.length ∧
      u.timer n =
        { s.timer n with tcnt := storedReload (writeOperand 16 w1 v), tmod := writeOperand 16 w2 m } := by
  refine ⟨_, (execAll_cons (exec_tcntW n w1 v s)).trans (execAll_cons (exec_tmodW n w2 m _)), rfl, rfl, rfl, ?_, ?_⟩
  · simp
  · simp [hn]

/-- The two latch writes and the start command on an idle channel: a running channel with the written latches, whose
agent, where it came into being, is at its check. -/
theorem execAll_start {s s1 : State} {n : Nat} {w1 w2 w3 : Width} {v m x : Word} (hn : n < s.timers.length)
    (hidle : (s.timer n).running = false) (hfreq : timerFreqValid s.cfg (writeOperand 16 w2 m) = true)
    (e : execAll [.tcntW n w1 v, .tmodW n w2 m, .tctlStart n w3 x] s = .next s1) :
    s1.cfg = s.cfg ∧ s1.hist = s.hist ∧ s1.timers.length = s.timers.length ∧
    s1.timer n = ⟨storedReload (writeOperand 16 w1 v), writeOperand 16 w2 m, true, false,
      if (spawn s).1 then .check else .off⟩ := by
  obtain ⟨u, hu, hcfg, hhist, hctr, hlength, htimer⟩ := execAll_latches w1 w2 v m [.tctlStart n w3 x] hn
  have hidle' : (u.timer n).running = false := by rw [htimer]; exact hidle
  have hfreq' : timerFreqValid u.cfg (u.timer n).tmod = true := by rw [htimer, hcfg]; exact hfreq
  rw [hu, execAll_singleton (exec_tctlStart n w3 x u), startTimer_of_idle hidle' hfreq', htimer,
    spawn_fst_congr hcfg hctr] at e
  cases e
  exact ⟨(spawn_cfg u).trans hcfg, (spawn_hist u).trans hhist, by simp [hlength], by simp [hlength, hn]⟩

/-- An agent at its check, on a channel with no stop request and a valid selector, falls asleep for the interval of the
latches, and its expiry pulses with that label (R196, R197). -/
theorem check_then_expire {s : State} {n l : Nat} (hn : n < s.timers.length) (hl : timerLineOf s.cfg n = some l)
    (hp : (s.timer n).tphase = .check) (hgo : (s.timer n).stopReq = false)
    (hfreq : timerFreqValid s.cfg (s.timer n).tmod = true) :
    ∃ t u, agentTCheck n s = .next t ∧ agentTExpire n t = .next u ∧
      u.hist = s.hist ++ [.pulse l (some (timerIntervalUs s.cfg (s.timer n).tcnt (s.timer n).tmod))] := by
  have hcheck := agentTCheck_of_check hp
  rw [checkedTimer_of_valid hgo hfreq] at hcheck
  refine ⟨_, _, hcheck, agentTExpire_of_sleep (by rw [timer_setTimer_self s n _ hn]), ?_⟩
  rw [setTimer_hist, setTimer_cfg, hl]
  rfl

/-- Settles O30: the armed channel keeps the interval of the written values, so every run pulses with it; and where the
agent comes into being, its check and its expiry pulse with it. -/
theorem timerEventsCarryTheInterval : Obligations.TimerEventsCarryTheInterval := by
  intro s s1 s2 n l k w1 w2 w3 v m x hinv hn hl hidle hfreq harm hwrite hrun
  obtain ⟨⟨_, _, _, _, _, hlines, _⟩, htimers, _⟩ := hinv
  obtain ⟨hcfg, hhist, hlength, htimer⟩ := execAll_start (htimers ▸ hn) hidle hfreq harm
  have hl1 : timerLineOf s1.cfg n = some l := hcfg ▸ hl
  refine ⟨?events, hhist, fun hspawn => ?agent⟩
  case events =>
    refine stepN_pulses hrun (hcfg ▸ hlines) hl1 hwrite ?_
    rw [htimer, hcfg]
    refine ⟨timerIntervalUs_storedReload .., fun i hi => ?_⟩
    dsimp only at hi
    split at hi <;> cases hi
  case agent =>
    rw [spawn_of_cannot_fail s hspawn] at htimer
    have hfires := check_then_expire (by rw [hlength, htimers]; exact hn) hl1 (by rw [htimer]; rfl) (by rw [htimer])
      (by rw [htimer, hcfg]; exact hfreq)
    rw [htimer, hcfg, hhist, timerIntervalUs_storedReload] at hfires
    exact hfires

end Sys2Proof.Machine
end

section
/-! SUPPORT. The bus operations of a serial channel and the steps of its receive path, one equation per case (R221 to
R226, R235 to R237). -/

namespace Sys2Proof.Machine

/-! ## Bus operations of a serial channel -/

@[simp] theorem respond_serial (s : State) (r : Resp) (ch : Nat) : (s.respond r).serial ch = s.serial ch := rfl

/-- A transmit-data write is a write of the latch and of the stream only (R221). -/
theorem sentSerial_eq (c : Cfg) (ch : Nat) (b : Byte) (x : SerialCh) : sentSerial c ch b x =
    { x with stxd := b, txOut := if c.transportOk.getD ch false then x.txOut ++ [b] else x.txOut } := by
  unfold sentSerial txOutByte
  split <;> rfl

section
variable (ch : Nat) (w : Width) (v : Word) (s : State)

theorem exec_stxdW : exec (.stxdW ch w v) s =
    .next ((irqAssert (if txie s.cfg (s.serial ch).sctl then txeLine s.cfg ch else none)
      (s.setSerial ch (sentSerial s.cfg ch (writeOperand 8 w v) (s.serial ch)))).respond .done) := by
  rw [irqAssert_ite]
  rfl

theorem exec_stxdR : exec (.stxdR ch w) s =
    .next (s.respond (.data w (readValue w ((s.serial ch).stxd.setWidth 32)))) := rfl

theorem exec_srxdR : exec (.srxdR ch w) s =
    .next ((popSerial ch s).respond (.data w (readValue w ((rxValue (s.serial ch)).setWidth 32)))) := rfl

theorem exec_srxdW : exec (.srxdW ch w v) s = .next (s.respond .done) := rfl

theorem exec_sctlW : exec (.sctlW ch w v) s =
    .next ((irqPulse
      (if txie s.cfg (s.serial ch).sctl && !txie s.cfg (writeOperand 16 w v) then txcLine s.cfg ch else none) none
      (s.setSerial ch { s.serial ch with sctl := writeOperand 16 w v })).respond .done) := by
  rw [irqPulse_ite]
  rfl

theorem exec_sctlR : exec (.sctlR ch w) s =
    .next (s.respond (.data w (readValue w ((s.serial ch).sctl.setWidth 32)))) := rfl

end

section
variable {ch : Nat} {s : State}

theorem popSerial_of_empty (h : (s.serial ch).rxCount = 0) : popSerial ch s = s := if_pos h

/-- A read of a non-empty buffer takes a byte, and clears rx-ready where that was the last one (R223). -/
theorem popSerial_of_unread (h : (s.serial ch).rxCount ≠ 0) : popSerial ch s =
    irqClear (if (s.serial ch).rxCount = 1 then rxrLine s.cfg ch else none)
      (s.setSerial ch (popByte s.cfg.rxCap (s.serial ch))) := by
  obtain ⟨hempty, _⟩ | ⟨hone, e⟩ | ⟨hmore, e⟩ := popSerial_spec ch s
  · exact absurd hempty h
  · rw [e, if_pos hone]
  · rw [e, if_neg (by omega), irqClear_none]

theorem rxValue_of_empty {x : SerialCh} (h : x.rxCount = 0) : rxValue x = 0 := if_pos h

theorem rxValue_of_unread {x : SerialCh} (h : x.rxCount ≠ 0) : rxValue x = frontByte x := if_neg h

/-! ## The receive path -/

theorem envRxDeliver_of_enabled {bytes : List Byte} (ho : s.cfg.transportOk.getD ch false = true) (hb : bytes ≠ []) :
    envRxDeliver ch bytes s = .next (s.setSerial ch { s.serial ch with rxIn := (s.serial ch).rxIn ++ bytes }) := by
  rw [envRxDeliver, if_pos (by rw [ho, decide_eq_true hb]; rfl)]

theorem envRxDeliver_of_not_enabled {bytes : List Byte} (h : s.cfg.transportOk.getD ch false = false ∨ bytes = []) :
    envRxDeliver ch bytes s = .refused .notEnabled := by
  refine if_neg fun he => ?_
  rw [Bool.and_eq_true, decide_eq_true_eq] at he
  obtain ⟨ho, hb⟩ := he
  obtain hclosed | hnil := h
  · exact absurd (ho.symm.trans hclosed) (by decide)
  · exact hb hnil

theorem agentRxPush_of_enabled {k : Nat} (h : rxPushEnabled s.cfg ch k (s.serial ch) = true) : agentRxPush ch k s =
    if s.cfg.rxAssertAtomic then
      .next (irqAssert (rxrLine s.cfg ch) (s.setSerial ch (pushedSerial s.cfg k (s.serial ch))))
    else .next (s.setSerial ch { pushedSerial s.cfg k (s.serial ch) with rxPending := true }) :=
  if_pos h

theorem agentRxPush_of_not_enabled {k : Nat} (h : ¬ rxPushEnabled s.cfg ch k (s.serial ch) = true) :
    agentRxPush ch k s = .refused .notEnabled :=
  if_neg h

theorem agentRxAssert_of_pending (h : (s.serial ch).rxPending = true) : agentRxAssert ch s =
    .next (irqAssert (rxrLine s.cfg ch) (s.setSerial ch { s.serial ch with rxPending := false })) :=
  if_pos h

theorem agentRxAssert_of_not_pending (h : (s.serial ch).rxPending = false) :
    agentRxAssert ch s = .refused .notEnabled :=
  if_neg (Bool.eq_false_iff.1 h)

end

end Sys2Proof.Machine
end

section
/-! The bus operations of a serial channel and the steps of its receive path (R221 to R226, R235 to R237). -/

namespace Sys2Proof.Machine

/-- Settles O31: the channel after the write, its two fields written out. -/
theorem transmitDataWrite : Obligations.TransmitDataWrite := by
  intro ch w v s
  rw [exec_stxdW, sentSerial_eq, irqAssert_ite, ite_apply]
  rfl

/-- Settles O32: the two reads of a latch and the write that is ignored. -/
theorem serialLatchReads : Obligations.SerialLatchReads :=
  fun ch w v s => ⟨exec_stxdR ch w s, exec_sctlR ch w s, exec_srxdW ch w v s⟩

/-- Settles O33: the read of an empty buffer, and of one that holds a byte. -/
theorem receiveDataRead : Obligations.ReceiveDataRead := by
  intro ch w s
  constructor
  · intro hempty
    rw [exec_srxdR, popSerial_of_empty hempty, rxValue_of_empty hempty]
    exact finishRead_zero w s
  · intro hunread
    rw [exec_srxdR, popSerial_of_unread hunread, rxValue_of_unread hunread]
    split <;> rfl

/-- Settles O34: `TXIE` falls where it was 1 and the bit of the written value is 0. -/
theorem serialControlWrite : Obligations.SerialControlWrite := by
  intro ch w v s
  have hfalls : ((s.serial ch).sctl.getLsbD s.cfg.sctlTxieBit = true ∧
      ((canonicalData w v).setWidth 16).getLsbD s.cfg.sctlTxieBit = false) ↔
      (txie s.cfg (s.serial ch).sctl && !txie s.cfg (writeOperand 16 w v)) = true := by
    rw [Bool.and_eq_true, Bool.not_eq_true']
    rfl
  simp only [hfalls]
  rw [exec_sctlW, irqPulse_ite, ite_apply]
  rfl

/-- Settles O36: each step of the receive path where it is enabled, and refused elsewhere. -/
theorem receivePathSteps : Obligations.ReceivePathSteps := by
  intro ch k bytes s
  refine ⟨envRxDeliver_of_enabled, envRxDeliver_of_not_enabled, fun ho hp hk hlen => ?_, fun h => ?_,
    agentRxAssert_of_pending, agentRxAssert_of_not_pending⟩
  · exact agentRxPush_of_enabled (rxPushEnabled_iff.2 ⟨ho, hp, hk, hlen⟩)
  · refine agentRxPush_of_not_enabled fun he => ?_
    obtain ⟨ho, hp, hk, hlen⟩ := rxPushEnabled_iff.1 he
    obtain hclosed | hpending | hzero | hshort := h
    · exact absurd (ho.symm.trans hclosed) (by decide)
    · exact absurd (hp.symm.trans hpending) (by decide)
    · omega
    · omega

end Sys2Proof.Machine
end

section
/-! SUPPORT. The line of a serial channel has no other source (R12 (f), R220), and what an operation of the bridge does
to the lines it is not on, also where it is on none (R381 to R383, R389). -/

namespace Sys2Proof.Machine

/-! ## One line, one source -/

theorem linesOf_getElem? {c : Cfg} {ch : Nat} {x : SerialLines} (h : linesOf c ch = some x) :
    c.serialLines[ch]? = some (some x) := by
  unfold linesOf at h
  split at h
  · rw [List.getD_eq_getElem?_getD] at h
    cases hentry : c.serialLines[ch]? with
    | none => simp [hentry] at h
    | some o => simpa [hentry] using h
  · cases h

/-- A line is of one serial channel at most. -/
theorem LineOf.channel_inj {c : Cfg} (hc : c.LinesOk) {m n l : Nat} (hm : LineOf c m l) (hn : LineOf c n l) :
    m = n := by
  obtain ⟨_, hserial, _⟩ := List.nodup_append.1 hc
  obtain ⟨_, hdisjoint⟩ := List.nodup_flatMap.1 hserial
  have hlt : ∀ {i j : Nat}, LineOf c i l → LineOf c j l → ¬ i < j := by
    intro i j hi hj hij
    obtain ⟨x, hx, hlx⟩ := hi.linesOf
    obtain ⟨y, hy, hly⟩ := hj.linesOf
    obtain ⟨hi', ex⟩ := List.getElem?_eq_some_iff.1 (linesOf_getElem? hx)
    obtain ⟨hj', ey⟩ := List.getElem?_eq_some_iff.1 (linesOf_getElem? hy)
    have hij := List.pairwise_iff_getElem.1 hdisjoint i j hi' hj' hij
    rw [ex, ey] at hij
    exact hij hlx hly
  have := hlt hm hn
  have := hlt hn hm
  omega

/-- The three lines of a channel are different. -/
theorem linesOf_nodup {c : Cfg} (hc : c.LinesOk) {ch : Nat} {x : SerialLines} (h : linesOf c ch = some x) :
    [x.txe, x.txc, x.rxr].Nodup := by
  obtain ⟨_, hserial, _⟩ := List.nodup_append.1 hc
  obtain ⟨heach, _⟩ := List.nodup_flatMap.1 hserial
  exact heach _ (linesOf_entry h)

/-- A receive line is no transmit line, of its own channel or of another. -/
theorem transmitLine_ne_rxrLine {c : Cfg} (hc : c.LinesOk) {m n k l : Nat}
    (hk : txeLine c m = some k ∨ txcLine c m = some k) (hl : rxrLine c n = some l) : k ≠ l := by
  rintro rfl
  have hm : LineOf c m k := hk.elim .inl (.inr ∘ .inl)
  obtain rfl := LineOf.channel_inj hc hm (.inr (.inr hl))
  obtain ⟨x, hx, rfl⟩ := Option.map_eq_some_iff.1 hl
  have hnodup := linesOf_nodup hc hx
  simp only [txeLine, txcLine, hx, Option.map_some, Option.some_inj] at hk
  obtain hk | hk := hk <;> simp [hk] at hnodup

theorem rxrLine_inj {c : Cfg} (hc : c.LinesOk) {m n l : Nat} (hm : rxrLine c m = some l) (hn : rxrLine c n = some l) :
    m = n :=
  LineOf.channel_inj hc (.inr (.inr hm)) (.inr (.inr hn))

/-! ## The levels of the other lines -/

section
variable {l : Option Nat} {m : Nat}

theorem irqLevel_irqAssert_of_ne (s : State) (h : l ≠ some m) : (irqAssert l s).irqLevel m = s.irqLevel m := by
  cases l with
  | none => rfl
  | some k => rw [irqLevel_irqAssert, if_neg fun (e : m = k) => h (e ▸ rfl)]

theorem irqLevel_irqClear_of_ne (s : State) (h : l ≠ some m) : (irqClear l s).irqLevel m = s.irqLevel m := by
  cases l with
  | none => rfl
  | some k => rw [irqLevel_irqClear, if_neg fun (e : m = k) => h (e ▸ rfl)]

theorem irqLevel_irqPulse_of_ne (label : Option Nat) (s : State) (h : l ≠ some m) :
    (irqPulse l label s).irqLevel m = s.irqLevel m := by
  cases l with
  | none => rfl
  | some k => rw [irqLevel_irqPulse, if_neg fun (e : m = k) => h (e ▸ rfl)]

end

end Sys2Proof.Machine
end

section
/-! The relation between unread bytes, a pending assertion and the rx-ready line (R241, R444). -/

namespace Sys2Proof.Machine

theorem State.Inv.linesOk {s : State} (h : s.Inv) : s.cfg.LinesOk := by
  obtain ⟨⟨_, _, _, _, _, hlines, _⟩, _⟩ := h
  exact hlines

/-! ## One channel -/

/-- The relation for one channel and the level of its rx-ready line. -/
def RxReady (c : Cfg) (x : SerialCh) (up : Bool) : Prop :=
  (0 < x.rxCount → x.rxPending = true ∨ up = true) ∧ (c.rxAssertAtomic = true → (up = true ↔ 0 < x.rxCount))

theorem rxReadyOk_iff {s : State} : RxReadyOk s ↔ ∀ ch l, ch < s.cfg.numSerial → rxrLine s.cfg ch = some l →
    RxReady s.cfg (s.serial ch) (s.irqLevel l) := Iff.rfl

/-- The two channels are the same as far as the relation reads them. -/
def SerialCh.SameReady (x y : SerialCh) : Prop := (0 < y.rxCount ↔ 0 < x.rxCount) ∧ y.rxPending = x.rxPending

theorem RxReady.congr {c : Cfg} {x y : SerialCh} {up : Bool} (h : RxReady c x up) (hxy : x.SameReady y) :
    RxReady c y up := by
  obtain ⟨hcount, hpending⟩ := hxy
  unfold RxReady
  rwa [hcount, hpending]

/-- A raised line meets the relation where something is unread, and everywhere if the push does not assert at once. -/
theorem RxReady.raised {c : Cfg} {x : SerialCh} (h : c.rxAssertAtomic = true → 0 < x.rxCount) : RxReady c x true :=
  ⟨fun _ => .inr rfl, fun ha => ⟨fun _ => h ha, fun _ => rfl⟩⟩

/-- Where the push does not assert at once, a pending assertion allows either level. -/
theorem RxReady.pending {c : Cfg} {x : SerialCh} (ha : c.rxAssertAtomic = false) (hp : x.rxPending = true) (up : Bool) :
    RxReady c x up :=
  ⟨fun _ => .inl hp, fun ha' => absurd (ha.symm.trans ha') (by decide)⟩

theorem RxReady.cleared {c : Cfg} {x : SerialCh} (hx : x.rxCount = 0) : RxReady c x false :=
  ⟨fun h => absurd hx (Nat.ne_of_gt h), fun _ => ⟨nofun, fun h => absurd hx (Nat.ne_of_gt h)⟩⟩

/-! ## The relation under the updates of the state -/

section
variable {s t : State} {ch : Nat} {x : SerialCh}

/-- The relation is about the serial channels and the rx-ready lines only. -/
theorem RxReadyOk.congr (h : RxReadyOk s) (hcfg : t.cfg = s.cfg) (hserials : t.serials = s.serials)
    (hlevel : ∀ n l, rxrLine s.cfg n = some l → t.irqLevel l = s.irqLevel l) : RxReadyOk t := by
  rw [rxReadyOk_iff, hcfg]
  intro n l hn hl
  rw [serial_congr hserials hcfg, hlevel n l hl]
  exact h n l hn hl

theorem RxReadyOk.frame (h : RxReadyOk s) (hcfg : t.cfg = s.cfg) (hserials : t.serials = s.serials)
    (hlines : t.irqHigh = s.irqHigh) : RxReadyOk t :=
  h.congr hcfg hserials fun _ l _ => irqLevel_congr hlines l

/-- One channel replaced, and no rx-ready line but its own moved. -/
theorem RxReadyOk.write (h : RxReadyOk s) (hinv : s.Inv) (hcfg : t.cfg = s.cfg)
    (hserials : t.serials = (s.setSerial ch x).serials)
    (hother : ∀ l, rxrLine s.cfg ch ≠ some l → t.irqLevel l = s.irqLevel l)
    (hown : ch < s.cfg.numSerial → ∀ l, rxrLine s.cfg ch = some l → RxReady s.cfg x (t.irqLevel l)) :
    RxReadyOk t := by
  rw [rxReadyOk_iff, hcfg]
  intro n l hn hl
  rw [serial_congr hserials hcfg]
  by_cases hch : n = ch
  · subst hch
    rw [hinv.serial_setSerial hn]
    exact hown hn l hl
  · rw [serial_setSerial_ne s ch n x (Ne.symm hch), hother l fun hl' => hch (rxrLine_inj hinv.linesOk hl hl')]
    exact h n l hn hl

/-- A channel replaced by one that is the same to the relation. -/
theorem RxReadyOk.setSerial (h : RxReadyOk s) (hinv : s.Inv) (hx : (s.serial ch).SameReady x) :
    RxReadyOk (s.setSerial ch x) :=
  h.write hinv rfl rfl (fun _ _ => rfl) fun hch l hl => RxReady.congr (h ch l hch hl) hx

/-- The rx-ready line of the channel asserted with the write to the channel. -/
theorem RxReadyOk.assert (h : RxReadyOk s) (hinv : s.Inv)
    (hx : ch < s.cfg.numSerial → s.cfg.rxAssertAtomic = true → 0 < x.rxCount) :
    RxReadyOk (irqAssert (rxrLine s.cfg ch) (s.setSerial ch x)) := by
  refine h.write hinv (irqAssert_cfg ..) (irqAssert_serials ..) (fun l => irqLevel_irqAssert_of_ne _) fun hch l hl => ?_
  rw [hl, irqLevel_irqAssert, if_pos rfl]
  exact .raised (hx hch)

/-- The rx-ready line of the channel cleared with the write that empties its buffer. -/
theorem RxReadyOk.clear (h : RxReadyOk s) (hinv : s.Inv) (hx : x.rxCount = 0) :
    RxReadyOk (irqClear (rxrLine s.cfg ch) (s.setSerial ch x)) := by
  refine h.write hinv (irqClear_cfg ..) (irqClear_serials ..) (fun l => irqLevel_irqClear_of_ne _) fun _ l hl => ?_
  rw [hl, irqLevel_irqClear, if_pos rfl]
  exact .cleared hx

theorem RxReadyOk.respond (h : RxReadyOk s) (r : Resp) : RxReadyOk (s.respond r) := h.frame rfl rfl rfl

/-- A read of the receive-data register: the line falls with the last byte, and only then. -/
theorem RxReadyOk.popSerial (h : RxReadyOk s) (hinv : s.Inv) (ch : Nat) : RxReadyOk (popSerial ch s) := by
  rcases popSerial_spec ch s with ⟨_, e⟩ | ⟨hone, e⟩ | ⟨hmore, e⟩ <;> rw [e]
  · exact h
  · exact h.clear hinv (by rw [popByte, hone])
  · refine h.setSerial hinv ⟨?_, rfl⟩
    simp only [popByte]
    omega

end

/-! ## Every step -/

section
variable {s s' : State}

theorem sentSerial_sameReady (c : Cfg) (ch : Nat) (b : Byte) (x : SerialCh) : x.SameReady (sentSerial c ch b x) := by
  rw [sentSerial_eq]
  exact ⟨Iff.rfl, rfl⟩

theorem pushedSerial_count_pos {c : Cfg} {ch k : Nat} {x : SerialCh} (h : SerialOk c ch x) (hk : 1 ≤ k)
    (hlen : k ≤ x.rxIn.length) : 0 < (pushedSerial c k x).rxCount := by
  refine pushChunk_count_pos (x := { x with rxIn := x.rxIn.drop k }) h.ring (List.ne_nil_of_length_pos ?_)
  rw [List.length_take]
  omega

/-- A bus operation moves a transmit line, or reads a byte, or leaves what the relation reads alone. -/
theorem BusEffect.rxReadyOk {i : Instr} (h : BusEffect s i s') (hready : RxReadyOk s) (hinv : s.Inv) :
    RxReadyOk s' := by
  cases h with
  | transmit ch w v =>
    refine (hready.setSerial hinv (sentSerial_sameReady ..)).congr (irqAssert_cfg ..) (irqAssert_serials ..) ?_
    refine fun n l hl => irqLevel_irqAssert_of_ne _ fun htxe => ?_
    exact transmitLine_ne_rxrLine hinv.linesOk (.inl (Option.ite_none_right_eq_some.1 htxe).2) hl rfl
  | control ch w v =>
    have hset := hready.setSerial (x := { s.serial ch with sctl := writeOperand 16 w v }) hinv ⟨Iff.rfl, rfl⟩
    refine hset.congr (irqPulse_cfg ..) (irqPulse_serials ..) ?_
    refine fun n l hl => irqLevel_irqPulse_of_ne _ _ fun htxc => ?_
    exact transmitLine_ne_rxrLine hinv.linesOk (.inr (Option.ite_none_right_eq_some.1 htxc).2) hl rfl
  | receive ch => exact hready.popSerial hinv ch
  | start n =>
    obtain ⟨hlines, _⟩ := (startTimer_owned n s).irqHigh_hist_eq nofun
    exact hready.frame (startTimer_cfg n s) (startTimer_serials n s) hlines
  | portControl => exact hready.frame (by simp) (by simp) (by simp)
  | unchanged | timerLatch | flashLatch | flashClear | flashWrite | flashErase | flashBlank | cipher | portLatch =>
    exact hready.frame rfl rfl rfl

theorem agentTExpire_rxReadyOk {n : Nat} (e : agentTExpire n s = .next s') (hready : RxReadyOk s) (hinv : s.Inv) :
    RxReadyOk s' := by
  obtain ⟨us, _, rfl⟩ := agentTExpire_spec e
  refine hready.congr (irqPulse_cfg ..) (irqPulse_serials ..) fun m l hl => ?_
  refine irqLevel_irqPulse_of_ne _ s fun htimer => ?_
  exact LineOf.ne_timerLine hinv.linesOk (.inr (.inr hl)) htimer rfl

/-- A push leaves the assertion pending, or makes it with something to read (R236). -/
theorem agentRxPush_rxReadyOk {ch k : Nat} (e : agentRxPush ch k s = .next s') (hready : RxReadyOk s)
    (hinv : s.Inv) : RxReadyOk s' := by
  obtain ⟨he, ⟨_, rfl⟩ | ⟨ha, rfl⟩⟩ := agentRxPush_spec e
  · obtain ⟨_, _, hk, hlen⟩ := rxPushEnabled_iff.1 he
    exact hready.assert hinv fun hch _ => pushedSerial_count_pos (hinv.serialOk hch) hk hlen
  · exact hready.write hinv rfl rfl (fun _ _ => rfl) fun _ l _ => .pending ha rfl _

/-- The pending assertion is made, in a configuration where the push did not make it (R237). -/
theorem agentRxAssert_rxReadyOk {ch : Nat} (e : agentRxAssert ch s = .next s') (hready : RxReadyOk s)
    (hinv : s.Inv) : RxReadyOk s' := by
  obtain ⟨hp, rfl⟩ := agentRxAssert_spec e
  refine hready.assert hinv fun hch ha => ?_
  exact absurd (((hinv.serialOk hch).not_atomic hp).symm.trans ha) (by decide)

theorem perform_rxReadyOk {a : Action} (e : perform a s = .next s') (hready : RxReadyOk s) (hinv : s.Inv) :
    RxReadyOk s' := by
  cases a with
  | bus t =>
    rw [perform_bus] at e
    obtain ⟨i, _, hexec⟩ := busAccess_spec e
    obtain ⟨u, r, heffect, hnext⟩ := exec_effect i s
    cases hexec.symm.trans hnext
    exact (heffect.rxReadyOk hready hinv).respond r
  | tCheck n =>
    obtain ⟨_, rfl⟩ := agentTCheck_spec e
    exact hready.frame rfl rfl rfl
  | tExpire n => exact agentTExpire_rxReadyOk e hready hinv
  | rxDeliver ch bytes =>
    obtain ⟨_, _, rfl⟩ := envRxDeliver_spec e
    exact hready.setSerial hinv ⟨Iff.rfl, rfl⟩
  | rxPush ch k => exact agentRxPush_rxReadyOk e hready hinv
  | rxAssert ch => exact agentRxAssert_rxReadyOk e hready hinv
  | pinOverride p dir out ext =>
    obtain ⟨_, _, rfl⟩ := envPinOverride_spec e
    exact hready.frame rfl rfl rfl
  | pinOverrideExt p token =>
    obtain ⟨_, _, _, rfl⟩ := envPinOverrideExt_spec e
    exact hready.frame rfl rfl rfl
  | irqSample =>
    cases e
    exact hready

end

/-- Settles O9: every action keeps the relation under the invariant, and a step performs the first scheduled one. -/
theorem stepKeepsRxReadyRelation : Obligations.StepKeepsRxReadyRelation := by
  intro s s' hinv hready e
  obtain rfl | ⟨a, rest, _, ha⟩ := step_spec e
  · exact hready
  · exact perform_rxReadyOk ha (hready.frame rfl rfl rfl) (Inv_schedule rest hinv)

end Sys2Proof.Machine
end

section
/-! Bytes written to a wired channel, and bytes received by it, as whole sequences (R242, R243). -/

namespace Sys2Proof.Machine

/-! ## Transmitting (R242) -/

/-- A wired channel is one whose transport is open (R220). -/
theorem txeLine_open {c : Cfg} {ch l : Nat} (h : txeLine c ch = some l) : c.transportOk.getD ch false = true := by
  obtain ⟨x, hx, _⟩ := Option.map_eq_some_iff.1 h
  exact (Option.ite_none_right_eq_some.1 hx).1

/-- A byte written at its own width reaches the register as it is (R87). -/
theorem writeOperand_byte (b : Byte) : writeOperand 8 .b1 (b.setWidth 32) = b := by
  have hfits : canonicalData .b1 (b.setWidth 32) = b.setWidth 32 := readValue_byte .b1 b
  rw [writeOperand, hfits, BitVec.setWidth_setWidth_of_le _ (by omega), BitVec.setWidth_eq]

section
variable {s : State} {ch le : Nat}

/-- A byte written to a wired channel with `TXIE` set: one assertion, and the byte handed over (R221). -/
theorem exec_stxdW_wired (b : Byte) (hch : ch < s.serials.length) (htxie : txie s.cfg (s.serial ch).sctl = true)
    (hle : txeLine s.cfg ch = some le) :
    ∃ u, exec (.stxdW ch .b1 (b.setWidth 32)) s = .next u ∧ u.cfg = s.cfg ∧ u.serials.length = s.serials.length ∧
      u.hist = s.hist ++ [.assert le] ∧
      u.serial ch = { s.serial ch with stxd := b, txOut := (s.serial ch).txOut ++ [b] } := by
  refine ⟨_, exec_stxdW .., by simp, by simp, ?_, ?_⟩
  · rw [htxie, if_pos rfl, hle]
    rfl
  · rw [respond_serial, irqAssert_serial, serial_setSerial_self s ch _ hch, sentSerial_eq, txeLine_open hle,
      if_pos rfl, writeOperand_byte]

/-- Bytes written one after the other to a wired channel with `TXIE` set (R242). -/
theorem execAll_stxdW_wired (bs : List Byte) (hch : ch < s.serials.length)
    (htxie : txie s.cfg (s.serial ch).sctl = true) (hle : txeLine s.cfg ch = some le) :
    ∃ t, execAll (bs.map fun b => .stxdW ch .b1 (b.setWidth 32)) s = .next t ∧ t.cfg = s.cfg ∧
      (t.serial ch).sctl = (s.serial ch).sctl ∧
      t.hist = s.hist ++ List.replicate bs.length (.assert le) ∧
      (t.serial ch).txOut = (s.serial ch).txOut ++ bs := by
  induction bs generalizing s with
  | nil => exact ⟨s, rfl, rfl, rfl, (List.append_nil _).symm, (List.append_nil _).symm⟩
  | cons b bs ih =>
    obtain ⟨u, hu, hcfg, hlength, hhist, hserial⟩ := exec_stxdW_wired b hch htxie hle
    obtain ⟨t, ht, htcfg, hsctl, hthist, htxOut⟩ :=
      ih (s := u) (hlength ▸ hch) (by rw [hcfg, hserial]; exact htxie) (hcfg ▸ hle)
    refine ⟨t, (execAll_cons hu).trans ht, htcfg.trans hcfg, by rw [hsctl, hserial], ?_, ?_⟩
    · rw [hthist, hhist, List.append_assoc]
      rfl
    · rw [htxOut, hserial, List.append_assoc]
      rfl

/-- The control write that clears `TXIE` on a wired channel pulses transmit-complete (R225). -/
theorem exec_sctlW_falls {lc : Nat} (w : Width) (v : Word) (htxie : txie s.cfg (s.serial ch).sctl = true)
    (hlc : txcLine s.cfg ch = some lc) (hv : txie s.cfg (writeOperand 16 w v) = false) :
    ∃ u, exec (.sctlW ch w v) s = .next u ∧ u.hist = s.hist ++ [.pulse lc none] := by
  refine ⟨_, exec_sctlW .., ?_⟩
  rw [htxie, hv, hlc]
  rfl

end

/-- Settles O38: by induction on the bytes, each write leaving the control register, and then the disabling write. -/
theorem transmitAssertsOncePerByte : Obligations.TransmitAssertsOncePerByte := by
  intro s ch le lc bs hinv hch htxie hle hlc
  obtain ⟨_, _, hserials, _⟩ := hinv
  obtain ⟨t, ht, hcfg, hsctl, hhist, htxOut⟩ := execAll_stxdW_wired bs (hserials ▸ hch) htxie hle
  refine ⟨t, ht, hhist, htxOut, fun w v hv => ?_⟩
  exact exec_sctlW_falls w v (by rw [hcfg, hsctl]; exact htxie) (hcfg ▸ hlc) (hcfg ▸ hv)

/-! ## Receiving (R243) -/

/-- Chunks pushed one after the other are one chunk of all their bytes (R236). -/
theorem foldl_pushChunk (cap : Nat) (x : SerialCh) (chunks : List (List Byte)) :
    chunks.foldl (pushChunk cap) x = pushChunk cap x chunks.flatten :=
  List.foldl_flatten.symm

section
variable {s : State} {ch : Nat}

/-- The event of a read, by whether it empties the buffer (R223). -/
theorem popSerial_hist (h : (s.serial ch).rxCount ≠ 0) : (popSerial ch s).hist = s.hist ++
    (if (s.serial ch).rxCount = 1 then ((rxrLine s.cfg ch).map Event.clear).toList else []) := by
  rw [popSerial_of_unread h, irqClear_hist]
  split <;> rfl

/-- One read of a channel that holds a byte: the oldest byte is returned and taken (R223). -/
theorem exec_srxdR_unread (hinv : s.Inv) (hch : ch < s.cfg.numSerial) (hx : (s.serial ch).rxCount ≠ 0) :
    ∃ u, exec (.srxdR ch .b1) s = .next u ∧ u.Inv ∧ u.cfg = s.cfg ∧
      u.resp = .data .b1 (((unread s.cfg.rxCap (s.serial ch)).headD 0).setWidth 32) ∧
      u.hist = s.hist ++ (if (s.serial ch).rxCount = 1 then ((rxrLine s.cfg ch).map Event.clear).toList else []) ∧
      unread u.cfg.rxCap (u.serial ch) = (unread s.cfg.rxCap (s.serial ch)).tail := by
  refine ⟨_, exec_srxdR .., Inv_exec _ hinv (exec_srxdR ch .b1 s), popSerial_cfg ch s, ?_, popSerial_hist hx, ?_⟩
  · rw [respond_resp, readValue_byte, rxValue_eq_headD (hinv.serialOk hch).ring]
  · rw [respond_cfg, popSerial_cfg, respond_serial, unread_popSerial hinv hch]

/-- Reads of at most as many bytes as are unread return them in order (R243). -/
theorem execAll_srxdR (k : Nat) (hinv : s.Inv) (hch : ch < s.cfg.numSerial) (hk : k < (s.serial ch).rxCount) :
    ∃ t, execAll (List.replicate (k + 1) (.srxdR ch .b1)) s = .next t ∧
      t.resp = .data .b1 (((unread s.cfg.rxCap (s.serial ch)).getD k 0).setWidth 32) ∧
      t.hist = s.hist ++
        (if k + 1 = (s.serial ch).rxCount then ((rxrLine s.cfg ch).map Event.clear).toList else []) := by
  induction k generalizing s with
  | zero =>
    obtain ⟨u, hu, _, _, hresp, hhist, _⟩ := exec_srxdR_unread hinv hch (by omega)
    refine ⟨u, execAll_singleton hu, ?_, ?_⟩
    · rw [hresp, List.headD_eq_getD]
    · rw [hhist, Nat.zero_add]
      simp only [eq_comm]
  | succ k ih =>
    obtain ⟨u, hu, huinv, hcfg, _, hhist, hunread⟩ := exec_srxdR_unread hinv hch (by omega)
    have hcount : (u.serial ch).rxCount = (s.serial ch).rxCount - 1 := by
      rw [← unread_length u.cfg.rxCap, hunread, List.length_tail, unread_length]
    obtain ⟨t, ht, htresp, hthist⟩ := ih (s := u) huinv (hcfg ▸ hch) (by omega)
    refine ⟨t, (execAll_cons hu).trans ht, ?_, ?_⟩
    · rw [htresp, hunread]
      simp [List.getD_eq_getElem?_getD]
    · have hlast : k + 1 = (u.serial ch).rxCount ↔ k + 1 + 1 = (s.serial ch).rxCount := by omega
      rw [if_neg (by omega), List.append_nil] at hhist
      rw [hthist, hhist, hcfg]
      simp only [hlast]

end

/-- Settles O39: the chunks by the law of one chunk, which the capacity does not cut; the reads by induction on their
number. -/
theorem receivedBytesComeBackInOrder : Obligations.ReceivedBytesComeBackInOrder := by
  refine ⟨fun c ch x chunks _ hok hempty hfits => ?_, fun s ch k => execAll_srxdR k⟩
  rw [foldl_pushChunk, unread_pushChunk _ hok.ring, unread_eq_nil hempty, List.nil_append, lastOnes_of_le hfits]

end Sys2Proof.Machine
end

section
/-! SUPPORT. The bus operations of the flash controller and of the flash data window, one equation per case (R263 to
R283); and, from those equations alone, the latches, the plain commands and the status register. -/

namespace Sys2Proof.Machine

/-! ## Bus operations of the flash -/

section
variable (w : Width) (v : Word) (s : State)

theorem exec_fsahW : exec (.fsahW w v) s = .next ((s.setFlash { s.flash with
    fsa := joinHalves (writeOperand 16 w v) (lowHalf s.flash.fsa) }).respond .done) := rfl

theorem exec_fsalW : exec (.fsalW w v) s = .next ((s.setFlash { s.flash with
    fsa := joinHalves (highHalf s.flash.fsa) (writeOperand 16 w v) }).respond .done) := rfl

theorem exec_feahW : exec (.feahW w v) s = .next ((s.setFlash { s.flash with
    fea := joinHalves (writeOperand 16 w v) (lowHalf s.flash.fea) }).respond .done) := rfl

theorem exec_fealW : exec (.fealW w v) s = .next ((s.setFlash { s.flash with
    fea := joinHalves (highHalf s.flash.fea) (writeOperand 16 w v) }).respond .done) := rfl

theorem exec_fwdW : exec (.fwdW w v) s =
    .next ((s.setFlash { s.flash with fwd := writeOperand 8 w v }).respond .done) := rfl

theorem exec_fsahR : exec (.fsahR w) s =
    .next (s.respond (.data w (readValue w ((highHalf s.flash.fsa).setWidth 32)))) := rfl

theorem exec_fsalR : exec (.fsalR w) s =
    .next (s.respond (.data w (readValue w ((lowHalf s.flash.fsa).setWidth 32)))) := rfl

theorem exec_feahR : exec (.feahR w) s =
    .next (s.respond (.data w (readValue w ((highHalf s.flash.fea).setWidth 32)))) := rfl

theorem exec_fealR : exec (.fealR w) s =
    .next (s.respond (.data w (readValue w ((lowHalf s.flash.fea).setWidth 32)))) := rfl

theorem exec_fwdR : exec (.fwdR w) s = .next (s.respond (.data w (readValue w (s.flash.fwd.setWidth 32)))) := rfl

theorem exec_fcmdR : exec (.fcmdR w) s = .next (s.respond (.data w (readValue w (s.flash.fcmd.setWidth 32)))) := rfl

theorem exec_fstatR : exec (.fstatR w) s =
    .next ((s.setFlash { s.flash with fstat := fstatRead s.cfg s.flash.fstat }).respond
      (.data w (readValue w (s.flash.fstat.setWidth 32)))) := rfl

theorem exec_fstatW : exec (.fstatW w v) s = .next (s.respond .done) := rfl

theorem exec_fcmdClear : exec (.fcmdClear w v) s = .next ((s.setFlash { s.flash with
    fcmd := s.cfg.fcmdClear, fstat := fstatCleared s.cfg s.flash.fstat }).respond .done) := rfl

theorem exec_fcmdWrite : exec (.fcmdWrite w v) s = .next ((s.setFlash
    { issue s.cfg s.cfg.fcmdWrite s.flash with mem := programmed s.cfg s.flash }).respond .done) := rfl

theorem exec_fcmdErase : exec (.fcmdErase w v) s = .next ((s.setFlash
    { issue s.cfg s.cfg.fcmdErase s.flash with mem := erased s.cfg s.flash }).respond .done) := rfl

theorem exec_fcmdBlank : exec (.fcmdBlank w v) s =
    .next ((s.setFlash (issue s.cfg s.cfg.fcmdBlank s.flash)).respond .done) := rfl

theorem exec_fcmdOther : exec (.fcmdOther w v) s = .next (s.respond .done) := rfl

theorem exec_flashdR (o : Nat) : exec (.flashdR o w) s = .next (s.respond
    (.data w (readValue w (assembleBytes s.cfg.byteOrder (flashBytes s o w.bytes))))) := rfl

theorem exec_flashdW (o : Nat) : exec (.flashdW o w v) s = .next (s.respond .done) := rfl

end

/-! ## Latches, plain commands and status -/

/-- Settles O40, by the equation of each latch write. -/
theorem flashLatchWrites : Obligations.FlashLatchWrites := fun w v s =>
  ⟨exec_fsahW w v s, exec_fsalW w v s, exec_feahW w v s, exec_fealW w v s, exec_fwdW w v s⟩

/-- Settles O41, by the equation of each read. -/
theorem flashRegisterReads : Obligations.FlashRegisterReads := fun w v s =>
  ⟨exec_fsahR w s, exec_fsalR w s, exec_feahR w s, exec_fealR w s, exec_fwdR w s, exec_fcmdR w s, exec_fstatW w v s⟩

/-- Settles O42, by the equation of each command. -/
theorem clearBlankAndOtherCommands : Obligations.ClearBlankAndOtherCommands := fun w v s =>
  ⟨exec_fcmdClear w v s, exec_fcmdBlank w v s, exec_fcmdOther w v s⟩

/-- Two reads of the status register bring its toggle bits back (R280). -/
theorem fstatRead_fstatRead (c : Cfg) (x : Byte) : fstatRead c (fstatRead c x) = x := by
  rw [fstatRead, fstatRead, BitVec.xor_assoc, BitVec.xor_self, BitVec.xor_zero]

/-- The last of `k + 1` status reads returns the status as `k` reads leave it: by the parity of `k` (R280). -/
theorem execAll_fstatR (k : Nat) (s : State) : ∃ t, execAll (List.replicate (k + 1) (.fstatR .b1)) s = .next t ∧
    t.resp = .data .b1 ((if k % 2 = 0 then s.flash.fstat else fstatRead s.cfg s.flash.fstat).setWidth 32) := by
  induction k generalizing s with
  | zero =>
    refine ⟨_, execAll_singleton (exec_fstatR .b1 s), ?_⟩
    rw [respond_resp, readValue_byte, if_pos (Nat.zero_mod 2)]
  | succ k ih =>
    obtain ⟨t, ht, hresp⟩ := ih ((s.setFlash { s.flash with fstat := fstatRead s.cfg s.flash.fstat }).respond
      (.data .b1 (readValue .b1 (s.flash.fstat.setWidth 32))))
    refine ⟨t, (execAll_cons (exec_fstatR .b1 s)).trans ht, ?_⟩
    simp only [respond_flash, respond_cfg, setFlash_flash, setFlash_cfg, fstatRead_fstatRead] at hresp
    by_cases hk : k % 2 = 0
    · rw [hresp, if_pos hk, if_neg (by omega)]
    · rw [hresp, if_neg hk, if_pos (by omega)]

/-- Settles O45: the one read by its equation, successive reads by induction on their number. -/
theorem statusReadsAlternate : Obligations.StatusReadsAlternate :=
  ⟨exec_fstatR, execAll_fstatR⟩

end Sys2Proof.Machine
end

section
/-! The array under the write and the erase command: which bytes change, and to what (R275, R276). -/

namespace Sys2Proof.Machine

section
variable {c : Cfg} {f : FlashCtl}

theorem programmed_of_valid {o : Nat} (ho : o < c.flashSize) (hfsa : f.fsa.toNat = c.flashdBase + o) :
    programmed c f = f.mem.write o f.fwd := by
  rw [programmed, flashOff_eq_some.2 ⟨ho, hfsa⟩]

theorem programmed_of_invalid (h : f.fsa.toNat < c.flashdBase ∨ c.flashdBase + c.flashSize ≤ f.fsa.toNat) :
    programmed c f = f.mem := by
  rw [programmed, flashOff_eq_none.2 h]

/-- Inside the window, the write command changes the byte at the start address only (R275). -/
theorem read_programmed (hwf : f.mem.wf = true) {o : Nat} (ho : o < c.flashSize) :
    (programmed c f).read o = if f.fsa.toNat = c.flashdBase + o then f.fwd else f.mem.read o := by
  cases hstart : flashOff c f.fsa with
  | none =>
    have hout := flashOff_eq_none.1 hstart
    rw [programmed_of_invalid hout, if_neg (by omega)]
  | some a =>
    obtain ⟨ha, hfsa⟩ := flashOff_eq_some.1 hstart
    rw [programmed_of_valid ha hfsa, Memory.read_write hwf]
    exact if_congr (by omega) rfl rfl

/-- The two addresses are in the window, and in order (R276). -/
abbrev EraseRangeValid (c : Cfg) (f : FlashCtl) : Prop :=
  c.flashdBase ≤ f.fsa.toNat ∧ f.fsa.toNat ≤ f.fea.toNat ∧ f.fea.toNat < c.flashdBase + c.flashSize

theorem erased_of_valid (h : EraseRangeValid c f) :
    erased c f = f.mem.erase (f.fsa.toNat - c.flashdBase) (f.fea.toNat - f.fsa.toNat + 1) := by
  obtain ⟨hbase, horder, hend⟩ := h
  have hfsa : flashOff c f.fsa = some (f.fsa.toNat - c.flashdBase) := flashOff_eq_some.2 (by omega)
  have hfea : flashOff c f.fea = some (f.fea.toNat - c.flashdBase) := flashOff_eq_some.2 (by omega)
  have hlength : f.fea.toNat - c.flashdBase - (f.fsa.toNat - c.flashdBase) = f.fea.toNat - f.fsa.toNat := by omega
  rw [erased, hfsa, hfea]
  dsimp only
  rw [if_pos (by omega), hlength]

theorem erased_of_invalid (h : ¬ EraseRangeValid c f) : erased c f = f.mem := by
  unfold erased
  split
  · next a b ha hb =>
    obtain ⟨_, hfsa⟩ := flashOff_eq_some.1 ha
    obtain ⟨_, hfea⟩ := flashOff_eq_some.1 hb
    exact if_neg fun hab => h ⟨by omega, by omega, by omega⟩
  · rfl

/-- The erase command zeroes exactly the bytes of a valid range, both ends included (R276). -/
theorem read_erased (hwf : f.mem.wf = true) (o : Nat) : (erased c f).read o =
    if EraseRangeValid c f ∧ f.fsa.toNat ≤ c.flashdBase + o ∧ c.flashdBase + o ≤ f.fea.toNat then 0x00
    else f.mem.read o := by
  by_cases h : EraseRangeValid c f
  · have ⟨hbase, horder, _⟩ := h
    rw [erased_of_valid h, Memory.read_erase hwf]
    refine if_congr ?_ rfl rfl
    rw [and_iff_right h]
    omega
  · rw [erased_of_invalid h, if_neg fun hr => h hr.1]

end

/-! ## The bytes the window shows -/

theorem flashByte_of_lt {s : State} {o : Nat} (ho : o < s.cfg.flashSize) : flashByte s o = s.flash.mem.read o :=
  if_pos ho

/-- Past the end of the array the window reads 0 (R91). -/
theorem flashByte_of_ge {s : State} {o : Nat} (ho : s.cfg.flashSize ≤ o) : flashByte s o = 0x00 :=
  if_neg (Nat.not_lt.2 ho)

section
variable {s t : State} {f : FlashCtl} {o : Nat}

/-- What the window shows once the array of `s` was programmed under the latches of `f`. -/
theorem flashByte_programmed (hwf : s.flash.mem.wf = true) (hcfg : t.cfg = s.cfg)
    (ht : t.flash.mem = programmed s.cfg f) (hf : f.mem = s.flash.mem) (ho : o < s.cfg.flashSize) :
    flashByte t o = if f.fsa.toNat = s.cfg.flashdBase + o then f.fwd else flashByte s o := by
  rw [flashByte_of_lt (hcfg ▸ ho), ht, read_programmed (hf ▸ hwf) ho, hf, flashByte_of_lt ho]

/-- What the window shows once the array of `s` was erased under the latches of `f`. -/
theorem flashByte_erased (hwf : s.flash.mem.wf = true) (hcfg : t.cfg = s.cfg)
    (ht : t.flash.mem = erased s.cfg f) (hf : f.mem = s.flash.mem) (ho : o < s.cfg.flashSize) : flashByte t o =
      if EraseRangeValid s.cfg f ∧ f.fsa.toNat ≤ s.cfg.flashdBase + o ∧ s.cfg.flashdBase + o ≤ f.fea.toNat then 0x00
      else flashByte s o := by
  rw [flashByte_of_lt (hcfg ▸ ho), ht, read_erased (hf ▸ hwf), hf, flashByte_of_lt ho]

end

/-! ## The two commands -/

/-- Settles O43: the equation of the command, and the law of a programmed array. -/
theorem writeCommandProgramsOneByte : Obligations.WriteCommandProgramsOneByte := fun w v s hwf =>
  ⟨_, exec_fcmdWrite w v s, rfl, fun _ ho => flashByte_programmed hwf rfl rfl rfl ho⟩

/-- Settles O44: the equation of the command, and the law of an erased array. A range that holds an address is in
order. -/
theorem eraseCommandZeroesTheRange : Obligations.EraseCommandZeroesTheRange := by
  refine fun w v s hwf => ⟨_, exec_fcmdErase w v s, rfl, fun o ho => ?_⟩
  refine Eq.trans (flashByte_erased hwf rfl rfl rfl ho) (if_congr ?_ rfl rfl)
  simp only [EraseRangeValid]
  omega

end Sys2Proof.Machine
end

section
/-! Reads of the flash data window: each byte of the value read is the array's byte at its offset (R90, R91, R282). -/

namespace Sys2Proof.Machine

/-! ## Bytes and the number they assemble to -/

theorem littleEndian_lt (bs : List Byte) : littleEndian bs < 2 ^ (8 * bs.length) := by
  induction bs with
  | nil => exact Nat.one_pos
  | cons b bs ih =>
    have hb := b.isLt
    rw [littleEndian, List.length_cons, Nat.mul_succ, Nat.pow_add]
    omega

/-- Byte `k` of the number is element `k` of the list, 0 past its end. -/
theorem littleEndian_byte (bs : List Byte) (k : Nat) :
    littleEndian bs / 2 ^ (8 * k) % 2 ^ 8 = (bs.getD k 0).toNat := by
  induction bs generalizing k with
  | nil => simp [littleEndian]
  | cons b bs ih =>
    have hb := b.isLt
    cases k with
    | zero =>
      rw [List.getD_cons_zero, littleEndian]
      omega
    | succ k =>
      have hrest : littleEndian (b :: bs) / 2 ^ 8 = littleEndian bs := by
        rw [littleEndian]
        omega
      rw [List.getD_cons_succ, ← ih, Nat.mul_succ, Nat.add_comm, Nat.pow_add, ← Nat.div_div_eq_div_mul, hrest]

/-- The bytes of rising addresses, the least significant one first. -/
def leastFirst (order : ByteOrder) (bs : List Byte) : List Byte :=
  match order with
  | .little => bs
  | .big => bs.reverse

theorem leastFirst_length (order : ByteOrder) (bs : List Byte) : (leastFirst order bs).length = bs.length := by
  cases order with
  | little => rfl
  | big => exact List.length_reverse

theorem assembleBytes_eq (order : ByteOrder) (bs : List Byte) :
    assembleBytes order bs = BitVec.ofNat 32 (littleEndian (leastFirst order bs)) := by
  cases order <;> rfl

section
variable {bs : List Byte} (order : ByteOrder) (h : bs.length ≤ 4)
include h

theorem assembleBytes_toNat : (assembleBytes order bs).toNat = littleEndian (leastFirst order bs) := by
  have hlt := littleEndian_lt (leastFirst order bs)
  rw [leastFirst_length] at hlt
  rw [assembleBytes_eq, BitVec.toNat_ofNat]
  exact Nat.mod_eq_of_lt (hlt.trans_le (Nat.pow_le_pow_right (by decide) (by omega)))

theorem assembleBytes_lt : (assembleBytes order bs).toNat < 2 ^ (8 * bs.length) := by
  rw [assembleBytes_toNat order h, ← leastFirst_length order]
  exact littleEndian_lt _

theorem assembleBytes_byte (k : Nat) :
    (assembleBytes order bs).extractLsb' (8 * k) 8 = (leastFirst order bs).getD k 0 := by
  apply BitVec.eq_of_toNat_eq
  rw [BitVec.extractLsb'_toNat, assembleBytes_toNat order h, Nat.shiftRight_eq_div_pow, littleEndian_byte]

end

/-! ## Bytes of the window -/

theorem flashBytes_eq_map (s : State) (o n : Nat) :
    flashBytes s o n = (List.range n).map fun k => flashByte s (o + k) := by
  induction n generalizing o with
  | zero => rfl
  | succ n ih =>
    rw [flashBytes, ih, List.range_succ_eq_map, List.map_cons, List.map_map]
    simp only [Function.comp_def, Nat.succ_eq_add_one, Nat.add_assoc, Nat.add_comm 1, Nat.add_zero]

@[simp] theorem flashBytes_length (s : State) (o n : Nat) : (flashBytes s o n).length = n := by
  simp [flashBytes_eq_map]

theorem leastFirst_little_flashBytes (s : State) (o : Nat) {n k : Nat} (hk : k < n) :
    (leastFirst .little (flashBytes s o n)).getD k 0 = flashByte s (o + k) := by
  simp [leastFirst, flashBytes_eq_map, hk]

theorem leastFirst_big_flashBytes (s : State) (o : Nat) {n k : Nat} (hk : k < n) :
    (leastFirst .big (flashBytes s o n)).getD k 0 = flashByte s (o + (n - 1 - k)) := by
  simp [leastFirst, flashBytes_eq_map, hk]

/-- The bytes of one access fit a word. -/
theorem flashBytes_length_le (s : State) (o : Nat) (w : Width) : (flashBytes s o w.bytes).length ≤ 4 := by
  rw [flashBytes_length]
  cases w <;> decide

theorem assembleBytes_flashBytes_lt (order : ByteOrder) (s : State) (o : Nat) (w : Width) :
    (assembleBytes order (flashBytes s o w.bytes)).toNat < 2 ^ (8 * w.bytes) := by
  simpa only [flashBytes_length] using assembleBytes_lt order (flashBytes_length_le s o w)

/-- The bytes of an access fit its width, so the read returns all of them (R88). -/
theorem exec_flashdR_assembled (o : Nat) (w : Width) (s : State) : exec (.flashdR o w) s =
    .next (s.respond (.data w (assembleBytes s.cfg.byteOrder (flashBytes s o w.bytes)))) := by
  rw [exec_flashdR, readValue, canonicalData_of_fits (decide_eq_true (assembleBytes_flashBytes_lt ..))]

/-- A byte alone is the number it spells, in either byte order. -/
theorem assembleBytes_singleton (order : ByteOrder) (b : Byte) : assembleBytes order [b] = b.setWidth 32 := by
  have hfirst : leastFirst order [b] = [b] := by cases order <;> rfl
  rw [assembleBytes_eq, hfirst, littleEndian, littleEndian, Nat.mul_zero, Nat.add_zero, BitVec.ofNat_toNat]

/-- A read one byte wide, in either byte order. -/
theorem exec_flashdR_byte (o : Nat) (s : State) :
    exec (.flashdR o .b1) s = .next (s.respond (.data .b1 ((flashByte s o).setWidth 32))) := by
  rw [exec_flashdR, Width.bytes, flashBytes, flashBytes, assembleBytes_singleton, readValue_byte]

/-- Settles O46: byte by byte, in each of the two byte orders. -/
theorem flashWindowReads : Obligations.FlashWindowReads := by
  intro o w v s
  refine ⟨⟨_, exec_flashdR_assembled o w s, assembleBytes_flashBytes_lt .., fun k hk => ?_⟩,
    fun _ => flashByte_of_ge, exec_flashdW w v s o⟩
  rw [assembleBytes_byte _ (flashBytes_length_le s o w)]
  cases s.cfg.byteOrder with
  | little => exact leastFirst_little_flashBytes s o hk
  | big => exact leastFirst_big_flashBytes s o hk

end Sys2Proof.Machine
end

section
/-! The two command sequences of R139, `FPROG` and `FERASE`, as a whole: the latches they leave, the array they make,
and what a read of the window returns then (R284). -/

namespace Sys2Proof.Machine

/-! ## Halves of an address -/

/-- A half written at its own width reaches the register as it is (R87). -/
theorem writeOperand_half (x : Half) : writeOperand 16 .b2 (x.setWidth 32) = x := by
  rw [writeOperand, canonicalData]
  simp [BitVec.setWidth_setWidth_of_le]

theorem highHalf_joinHalves (hi lo : Half) : highHalf (joinHalves hi lo) = hi := by
  rw [highHalf, joinHalves, BitVec.extractLsb'_append_eq_left]

theorem joinHalves_high_low (a : Word) : joinHalves (highHalf a) (lowHalf a) = a := by
  unfold joinHalves highHalf lowHalf
  rw [BitVec.extractLsb'_append_extractLsb'_eq_extractLsb' (by decide)]
  simp

/-! ## The sequences -/

/-- `FSTART a` sets the whole start latch, and nothing else. -/
theorem execAll_flashStart (a : Word) (is : List Instr) (s : State) : execAll (flashStart a ++ is) s =
    execAll is ((s.setFlash { s.flash with fsa := a }).respond .done) := by
  rw [flashStart, List.cons_append, List.cons_append, List.nil_append, execAll_cons (exec_fsahW ..),
    execAll_cons (exec_fsalW ..)]
  simp only [respond_flash, setFlash_flash, writeOperand_half, highHalf_joinHalves, joinHalves_high_low]
  rfl

/-- `FEND a` sets the whole end latch, and nothing else. -/
theorem execAll_flashEnd (a : Word) (is : List Instr) (s : State) : execAll (flashEnd a ++ is) s =
    execAll is ((s.setFlash { s.flash with fea := a }).respond .done) := by
  rw [flashEnd, List.cons_append, List.cons_append, List.nil_append, execAll_cons (exec_feahW ..),
    execAll_cons (exec_fealW ..)]
  simp only [respond_flash, setFlash_flash, writeOperand_half, highHalf_joinHalves, joinHalves_high_low]
  rfl

/-- `FPROG a, b` leaves the array as the write command makes it with these latches. -/
theorem execAll_flashProg (s : State) (a : Word) (b : Byte) : ∃ t, execAll (flashProg s.cfg a b) s = .next t ∧
    t.cfg = s.cfg ∧ t.flash.mem = programmed s.cfg { s.flash with fsa := a, fwd := b } := by
  rw [flashProg, execAll_flashStart, execAll_cons (exec_fwdW ..), execAll_cons (exec_fcmdWrite ..)]
  refine ⟨_, execAll_singleton (exec_fcmdClear ..), rfl, ?_⟩
  simp only [writeOperand_byte]
  rfl

/-- `FERASE a, b` leaves the array as the erase command makes it with these latches. -/
theorem execAll_flashErase (s : State) (a b : Word) : ∃ t, execAll (flashErase s.cfg a b) s = .next t ∧
    t.cfg = s.cfg ∧ t.flash.mem = erased s.cfg { s.flash with fsa := a, fea := b } := by
  rw [flashErase, List.append_assoc, execAll_flashStart, execAll_flashEnd, execAll_cons (exec_fcmdErase ..)]
  exact ⟨_, execAll_singleton (exec_fcmdClear ..), rfl, rfl⟩

/-! ## Reading back (R284) -/

theorem State.Inv.flashMem_wf {s : State} (h : s.Inv) : s.flash.mem.wf = true := by
  obtain ⟨_, _, hwf, _⟩ := h.flashOk
  exact hwf

/-- Settles O47: the law of a programmed array, read through the window. -/
theorem programmedByteReadsBack : Obligations.ProgrammedByteReadsBack := by
  intro s a b hinv
  obtain ⟨t, ht, hcfg, hmem⟩ := execAll_flashProg s a b
  refine ⟨t, ht, fun o ha ho => ⟨?_, fun o' hne => ?_⟩, fun hout => hmem.trans (programmed_of_invalid hout)⟩
  · rw [exec_flashdR_byte, flashByte_programmed hinv.flashMem_wf hcfg hmem rfl ho, if_pos ha]
  · by_cases ho' : o' < s.cfg.flashSize
    · have ha' : a.toNat ≠ s.cfg.flashdBase + o' := by omega
      rw [flashByte_programmed hinv.flashMem_wf hcfg hmem rfl ho', if_neg ha']
    · have hge := Nat.not_lt.1 ho'
      rw [flashByte_of_ge hge, flashByte_of_ge (hcfg ▸ hge)]

/-- Settles O48: the law of an erased array, read through the window. -/
theorem erasedRangeReadsZero : Obligations.ErasedRangeReadsZero := by
  intro s a b hinv
  obtain ⟨t, ht, hcfg, hmem⟩ := execAll_flashErase s a b
  refine ⟨t, ht, fun hbase horder hend o ho => ?_, fun hbad => hmem.trans (erased_of_invalid ?_)⟩
  · have hbyte := flashByte_erased hinv.flashMem_wf hcfg hmem rfl ho
    refine ⟨fun hlow hhigh => ?_, fun hout => ?_⟩
    · rw [exec_flashdR_byte, hbyte, if_pos ⟨⟨hbase, horder, hend⟩, hlow, hhigh⟩]
      rfl
    · exact hbyte.trans
        (if_neg fun ⟨_, hlow, hhigh⟩ => hout.elim (Nat.not_lt.2 hlow) (Nat.not_lt.2 hhigh))
  · rintro ⟨hbase, horder, hend⟩
    dsimp only at hbase horder hend
    omega

end Sys2Proof.Machine
end

section
/-! SUPPORT. The bus operations of the cipher unit, one equation per case (R311 to R322); and, from those equations
alone, what the statements say of the command, the mode and the streams. -/

namespace Sys2Proof.Machine

/-! ## Bus operations of the cipher unit -/

/-- A write to a 32-bit register hands over the canonical data as it is (R87). -/
theorem writeOperand_word (w : Width) (v : Word) : writeOperand 32 w v = canonicalData w v :=
  BitVec.setWidth_eq _

section
variable (w : Width) (v : Word) (s : State)

theorem exec_ccmdW : exec (.ccmdW w v) s =
    .next ((s.setCipher { s.cipher with ccmd := s.cipher.ccmd ||| canonicalData w v }).respond .done) := by
  rw [← writeOperand_word]
  rfl

theorem exec_ccmdR : exec (.ccmdR w) s =
    .next ((s.setCipher { s.cipher with outIdx := 0 }).respond (.data w (canonicalData w s.cfg.cipherReady))) := rfl

theorem exec_cmodeW : exec (.cmodeW w v) s = .next ((s.setCipher { s.cipher with
    cmode := canonicalData w v, civ := ⟨0, 0, 0, 0⟩, ivIdx := 0, ccmd := 0 }).respond .done) := by
  rw [← writeOperand_word]
  rfl

theorem exec_cmodeR : exec (.cmodeR w) s = .next (s.respond (.data w (canonicalData w s.cipher.cmode))) := rfl

theorem exec_ckeyW : exec (.ckeyW w v) s = .next ((s.setCipher { s.cipher with
    ckey := quadSet s.cipher.ckey s.cipher.keyIdx (bswap32 (canonicalData w v)),
    keyIdx := s.cipher.keyIdx + 1 }).respond .done) := by
  rw [← writeOperand_word, ← nextIdx_eq]
  rfl

theorem exec_ckeyR : exec (.ckeyR w) s = .next (s.respond (.data w 0)) := finishRead_zero w s

theorem exec_civW : exec (.civW w v) s = .next ((s.setCipher { s.cipher with
    civ := quadSet s.cipher.civ s.cipher.ivIdx (bswap32 (canonicalData w v)),
    ivIdx := s.cipher.ivIdx + 1 }).respond .done) := by
  rw [← writeOperand_word, ← nextIdx_eq]
  rfl

theorem exec_civR : exec (.civR w) s = .next (s.respond (.data w 0)) := finishRead_zero w s

theorem exec_cdinW : exec (.cdinW w v) s =
    .next ((s.setCipher (cipherInput s.cfg (canonicalData w v) s.cipher)).respond .done) := by
  rw [← writeOperand_word]
  rfl

theorem exec_cdinR : exec (.cdinR w) s = .next (s.respond (.data w 0)) := finishRead_zero w s

theorem exec_cdoutR : exec (.cdoutR w) s =
    .next ((s.setCipher { s.cipher with outIdx := s.cipher.outIdx + 1 }).respond
      (.data w (canonicalData w (bswap32 (quadGet s.cipher.cdout s.cipher.outIdx))))) := by
  rw [← nextIdx_eq]
  rfl

theorem exec_cdoutW : exec (.cdoutW w v) s = .next (s.respond .done) := rfl

end

/-! ## Command, mode and streams -/

/-- Settles O49, by the equation of each operation. -/
theorem cipherCommandAndMode : Obligations.CipherCommandAndMode := fun w v s =>
  ⟨exec_ccmdW w v s, exec_ccmdR w s, exec_cmodeW w v s, exec_cmodeR w s⟩

/-- Settles O50, by the equation of each operation: the index after a write is the successor in `Fin 4`. -/
theorem cipherStreams : Obligations.CipherStreams := fun w v s =>
  ⟨exec_ckeyW w v s, exec_civW w v s, exec_ckeyR w s, exec_civR w s, exec_cdinR w s, exec_cdoutW w v s⟩

/-- Settles O53, by the equation of the read. -/
theorem outputRead : Obligations.OutputRead := exec_cdoutR

end Sys2Proof.Machine
end

section
/-! The byte swap of a word, and groups of four words (R13, R310). -/

namespace Sys2Proof.Machine

/-! ## The byte swap -/

/-- The bytes in reverse order, one equation per byte: each is one of the four parts the swap joins. -/
theorem bswap32_byte (v : Word) {j : Nat} (hj : j < 4) :
    (bswap32 v).extractLsb' (8 * j) 8 = v.extractLsb' (24 - 8 * j) 8 := by
  unfold bswap32
  match j, hj with
  | 0, _ => exact BitVec.extractLsb'_append_eq_right
  | 1, _ =>
    rw [BitVec.extractLsb'_append_eq_of_le (by decide)]
    exact BitVec.extractLsb'_append_eq_right
  | 2, _ =>
    rw [BitVec.extractLsb'_append_eq_of_le (by decide), BitVec.extractLsb'_append_eq_of_le (by decide)]
    exact BitVec.extractLsb'_append_eq_right
  | 3, _ =>
    rw [BitVec.extractLsb'_append_eq_of_le (by decide), BitVec.extractLsb'_append_eq_of_le (by decide)]
    exact BitVec.extractLsb'_append_eq_left

/-- A word is its four bytes, the highest first. -/
theorem append_bytes (v : Word) :
    v.extractLsb' 24 8 ++ v.extractLsb' 16 8 ++ v.extractLsb' 8 8 ++ v.extractLsb' 0 8 = v := by
  rw [BitVec.extractLsb'_append_extractLsb'_eq_extractLsb' (by decide),
    BitVec.extractLsb'_append_extractLsb'_eq_extractLsb' (by decide),
    BitVec.extractLsb'_append_extractLsb'_eq_extractLsb' (by decide)]
  exact BitVec.extractLsb'_eq_self

@[simp] theorem bswap32_bswap32 (v : Word) : bswap32 (bswap32 v) = v := by
  have h0 : (bswap32 v).extractLsb' 0 8 = v.extractLsb' 24 8 := bswap32_byte v (j := 0) (by decide)
  have h1 : (bswap32 v).extractLsb' 8 8 = v.extractLsb' 16 8 := bswap32_byte v (j := 1) (by decide)
  have h2 : (bswap32 v).extractLsb' 16 8 = v.extractLsb' 8 8 := bswap32_byte v (j := 2) (by decide)
  have h3 : (bswap32 v).extractLsb' 24 8 = v.extractLsb' 0 8 := bswap32_byte v (j := 3) (by decide)
  rw [bswap32, h0, h1, h2, h3, append_bytes]

/-! ## Groups of four words -/

theorem quadGet_quadSet_ne (q : Quad) {i j : Fin 4} (v : Word) (h : j ≠ i) :
    quadGet (quadSet q i v) j = quadGet q j := by
  match i, j with
  | 0, 1 | 0, 2 | 0, 3 | 1, 0 | 1, 2 | 1, 3 | 2, 0 | 2, 1 | 2, 3 | 3, 0 | 3, 1 | 3, 2 => rfl
  | 0, 0 | 1, 1 | 2, 2 | 3, 3 => exact absurd rfl h

/-- Settles O51: the bytes of the swap, and the word of a group read back at the same and at another position. -/
theorem byteSwapReversesBytes : Obligations.ByteSwapReversesBytes := by
  refine ⟨fun v => ⟨bswap32_bswap32 v, fun j => bswap32_byte v⟩, fun q i j v => ?_⟩
  by_cases h : j = i
  · rw [h, quadGet_quadSet_same, if_pos rfl]
  · rw [quadGet_quadSet_ne q v h, if_neg h]

theorem quadXor_quadXor_self (a b : Quad) : quadXor (quadXor a b) b = a := by
  simp [quadXor]

/-- The byte swap of every word of a group: what the unit holds of four words written to it, and what a read-out
returns of what it holds (R310). -/
def quadSwap (q : Quad) : Quad := ⟨bswap32 q.w0, bswap32 q.w1, bswap32 q.w2, bswap32 q.w3⟩

@[simp] theorem quadSwap_quadSwap (q : Quad) : quadSwap (quadSwap q) = q := by
  simp [quadSwap]

theorem quadGet_quadSwap (q : Quad) (j : Fin 4) : quadGet (quadSwap q) j = bswap32 (quadGet q j) := by
  match j with
  | 0 | 1 | 2 | 3 => rfl

end Sys2Proof.Machine
end

section
/-! One input word, and the transform in each direction and mode (R319, R323). -/

namespace Sys2Proof.Machine

/-! ## The four cases of the transform -/

section
variable {c : Cfg} {u : CipherUnit}

theorem transform_ecb_encrypt (hmode : cipherCbc c u.ccmd = false) (hdir : cipherDecrypt c u.ccmd = false) :
    transform c u = { u with cdout := bcEnc c u.ckey u.cdin } := by
  simp only [transform, hmode, hdir]

theorem transform_ecb_decrypt (hmode : cipherCbc c u.ccmd = false) (hdir : cipherDecrypt c u.ccmd = true) :
    transform c u = { u with cdout := bcDec c u.ckey u.cdin } := by
  simp only [transform, hmode, hdir]

theorem transform_cbc_encrypt (hmode : cipherCbc c u.ccmd = true) (hdir : cipherDecrypt c u.ccmd = false) :
    transform c u =
      { u with civ := bcEnc c u.ckey (quadXor u.cdin u.civ), cdout := bcEnc c u.ckey (quadXor u.cdin u.civ) } := by
  simp only [transform, hmode, hdir]

theorem transform_cbc_decrypt (hmode : cipherCbc c u.ccmd = true) (hdir : cipherDecrypt c u.ccmd = true) :
    transform c u = { u with civ := u.cdin, cdout := quadXor (bcDec c u.ckey u.cdin) u.civ } := by
  simp only [transform, hmode, hdir]

/-! ## The input word -/

theorem cipherInput_of_ne (v : Word) (h : u.dinIdx ≠ 3) : cipherInput c v u =
    { u with cdin := quadSet u.cdin u.dinIdx (bswap32 v), dinIdx := u.dinIdx + 1 } := by
  obtain ⟨_, heq⟩ | ⟨h3, _⟩ := cipherInput_spec c v u
  · rw [heq, nextIdx_eq]
  · exact absurd h3 h

theorem cipherInput_of_eq (v : Word) (h : u.dinIdx = 3) : cipherInput c v u =
    { transform c { u with cdin := quadSet u.cdin 3 (bswap32 v) } with dinIdx := 0 } := by
  obtain ⟨h3, _⟩ | ⟨_, heq⟩ := cipherInput_spec c v u
  · exact absurd h h3
  · exact heq

end

/-- Settles O52: the fourth word by the four cases of the transform. -/
theorem fourthInputWordTransforms : Obligations.FourthInputWordTransforms := by
  intro w v s
  refine ⟨fun hidx => ?_, fun hidx block hblock => ?_⟩
  · rw [exec_cdinW, cipherInput_of_ne _ hidx]
  · rw [exec_cdinW, cipherInput_of_eq _ hidx, ← hblock]
    refine ⟨fun hmode hdir => ?_, fun hmode hdir => ?_, fun hmode hdir => ?_, fun hmode hdir => ?_⟩
    · rw [transform_ecb_encrypt (u := { s.cipher with cdin := block }) hmode hdir]
    · rw [transform_ecb_decrypt (u := { s.cipher with cdin := block }) hmode hdir]
    · rw [transform_cbc_encrypt (u := { s.cipher with cdin := block }) hmode hdir]
    · rw [transform_cbc_decrypt (u := { s.cipher with cdin := block }) hmode hdir]

end Sys2Proof.Machine
end

section
/-! A cipher session as a whole, the read-out after it, and two sessions that invert each other (R139, R324). -/

namespace Sys2Proof.Machine

/-! ## Four words into a group -/

/-- `CKEY4 key` (R139). -/
def keyWrites (key : Quad) : List Instr :=
  [.ckeyW .b4 key.w0, .ckeyW .b4 key.w1, .ckeyW .b4 key.w2, .ckeyW .b4 key.w3]

/-- `CIV4 iv` (R139). -/
def ivWrites (iv : Quad) : List Instr :=
  [.civW .b4 iv.w0, .civW .b4 iv.w1, .civW .b4 iv.w2, .civW .b4 iv.w3]

/-- `CDIN4 block` (R139). -/
def inputWrites (block : Quad) : List Instr :=
  [.cdinW .b4 block.w0, .cdinW .b4 block.w1, .cdinW .b4 block.w2, .cdinW .b4 block.w3]

theorem cipherSession_eq (mode cmd : Word) (key iv block : Quad) : cipherSession mode cmd key iv block =
    .cmodeW .b4 mode :: (keyWrites key ++ (ivWrites iv ++ .ccmdW .b4 cmd :: inputWrites block)) := rfl

section
variable (s : State) (u : CipherUnit) (r : Resp) (is : List Instr)

theorem execAll_ckeyW_cons (k : Quad) (i : Fin 4) (v : Word) :
    execAll (.ckeyW .b4 v :: is) ((s.setCipher { u with ckey := k, keyIdx := i }).respond r) =
      execAll is ((s.setCipher { u with ckey := quadSet k i (bswap32 v), keyIdx := i + 1 }).respond .done) :=
  execAll_cons (exec_ckeyW ..)

theorem execAll_civW_cons (k : Quad) (i : Fin 4) (v : Word) :
    execAll (.civW .b4 v :: is) ((s.setCipher { u with civ := k, ivIdx := i }).respond r) =
      execAll is ((s.setCipher { u with civ := quadSet k i (bswap32 v), ivIdx := i + 1 }).respond .done) :=
  execAll_cons (exec_civW ..)

/-- An input word before the fourth. -/
theorem execAll_cdinW_cons (d : Quad) {i : Fin 4} (v : Word) (h : i ≠ 3) :
    execAll (.cdinW .b4 v :: is) ((s.setCipher { u with cdin := d, dinIdx := i }).respond r) =
      execAll is ((s.setCipher { u with cdin := quadSet d i (bswap32 v), dinIdx := i + 1 }).respond .done) := by
  rw [execAll_cons (exec_cdinW ..), respond_cipher, setCipher_cipher, cipherInput_of_ne _ h]
  rfl

/-- A mode write, with the unit `u` it finds named: that its key and input groups are empty is kept (R313). -/
theorem execAll_cmodeW_cons {s : State} {u : CipherUnit} (mode : Word) (h : s.cipher = u) :
    execAll (.cmodeW .b4 mode :: is) s =
      execAll is ((s.setCipher { u with ccmd := 0, cmode := mode, civ := .zero, ivIdx := 0 }).respond .done) := by
  subst h
  exact execAll_cons (exec_cmodeW ..)

/-- The first command after a mode write is the whole command. -/
theorem execAll_ccmdW_cons (cmd : Word) :
    execAll (.ccmdW .b4 cmd :: is) ((s.setCipher { u with ccmd := 0 }).respond r) =
      execAll is ((s.setCipher { u with ccmd := cmd }).respond .done) := by
  have hor : 0 ||| canonicalData .b4 cmd = cmd := BitVec.zero_or
  rw [execAll_cons (exec_ccmdW ..), respond_cipher, setCipher_cipher, hor]
  rfl

/-- From fill index 0 the four words set the whole key, and nothing else. -/
theorem execAll_keyWrites (key k : Quad) :
    execAll (keyWrites key ++ is) ((s.setCipher { u with ckey := k, keyIdx := 0 }).respond r) =
      execAll is ((s.setCipher { u with ckey := quadSwap key, keyIdx := 0 }).respond .done) := by
  simp only [keyWrites, List.cons_append, List.nil_append, execAll_ckeyW_cons]
  rfl

/-- From fill index 0 the four words set the whole chain value, and nothing else. -/
theorem execAll_ivWrites (iv k : Quad) :
    execAll (ivWrites iv ++ is) ((s.setCipher { u with civ := k, ivIdx := 0 }).respond r) =
      execAll is ((s.setCipher { u with civ := quadSwap iv, ivIdx := 0 }).respond .done) := by
  simp only [ivWrites, List.cons_append, List.nil_append, execAll_civW_cons]
  rfl

/-- From fill index 0 the four words run one transform of the whole block. -/
theorem execAll_inputWrites (block d : Quad) :
    execAll (inputWrites block) ((s.setCipher { u with cdin := d, dinIdx := 0 }).respond r) =
      .next ((s.setCipher { transform s.cfg { u with cdin := quadSwap block, dinIdx := 3 } with
        dinIdx := 0 }).respond .done) := by
  rw [inputWrites, execAll_cdinW_cons _ _ _ _ _ _ (by decide), execAll_cdinW_cons _ _ _ _ _ _ (by decide),
    execAll_cdinW_cons _ _ _ _ _ _ (by decide), execAll_singleton (exec_cdinW ..), respond_cipher, setCipher_cipher,
    cipherInput_of_eq _ rfl]
  rfl

end

/-! ## The session -/

/-- The unit `u` in a session, with all of the session's words in and the transform still to run. -/
def sessionUnit (u : CipherUnit) (mode cmd : Word) (key iv block : Quad) : CipherUnit :=
  { u with
    ccmd := cmd
    cmode := mode
    ckey := quadSwap key
    civ := quadSwap iv
    cdin := quadSwap block
    keyIdx := 0
    ivIdx := 0
    dinIdx := 3 }

theorem cipher_eq_of_empty {u : CipherUnit} (hkey : u.keyIdx = 0) (hdin : u.dinIdx = 0) :
    u = { u with keyIdx := 0, dinIdx := 0 } := by
  cases u
  subst hkey hdin
  rfl

/-- A session that begins with empty key and input groups is one transform of the unit its words make. -/
theorem execAll_cipherSession {s : State} (mode cmd : Word) (key iv block : Quad) (hkey : s.cipher.keyIdx = 0)
    (hdin : s.cipher.dinIdx = 0) : execAll (cipherSession mode cmd key iv block) s =
      .next ((s.setCipher { transform s.cfg (sessionUnit s.cipher mode cmd key iv block) with
        dinIdx := 0 }).respond .done) := by
  rw [cipherSession_eq, execAll_cmodeW_cons _ mode (cipher_eq_of_empty hkey hdin)]
  refine (execAll_keyWrites s { s.cipher with
    ccmd := 0, cmode := mode, civ := .zero, ivIdx := 0, dinIdx := 0 } _ _ key s.cipher.ckey).trans ?_
  refine (execAll_ivWrites s { s.cipher with
    ccmd := 0, cmode := mode, ckey := quadSwap key, keyIdx := 0, dinIdx := 0 } _ _ iv .zero).trans ?_
  refine (execAll_ccmdW_cons s { s.cipher with
    cmode := mode, ckey := quadSwap key, civ := quadSwap iv, keyIdx := 0, ivIdx := 0, dinIdx := 0 } _ _ cmd).trans ?_
  exact execAll_inputWrites s { s.cipher with
    ccmd := cmd, cmode := mode, ckey := quadSwap key, civ := quadSwap iv, keyIdx := 0, ivIdx := 0 } _ block
    s.cipher.cdin

/-- A session that begins with empty groups leaves them empty, and its output latch holds one transform. -/
theorem execAll_cipherSession_spec {s : State} (mode cmd : Word) (key iv block : Quad) (hkey : s.cipher.keyIdx = 0)
    (hdin : s.cipher.dinIdx = 0) : ∃ t, execAll (cipherSession mode cmd key iv block) s = .next t ∧
      t.cfg = s.cfg ∧ t.cipher.keyIdx = 0 ∧ t.cipher.dinIdx = 0 ∧
      t.cipher.cdout = (transform s.cfg (sessionUnit s.cipher mode cmd key iv block)).cdout := by
  refine ⟨_, execAll_cipherSession mode cmd key iv block hkey hdin, rfl, ?_, rfl, rfl⟩
  rw [respond_cipher, setCipher_cipher, transform_frame]
  rfl

/-! ## The read-out -/

theorem add_ofNat_succ (i : Fin 4) (k : Nat) : i + 1 + Fin.ofNat 4 k = i + Fin.ofNat 4 (k + 1) := by
  simp only [Fin.ext_iff, Fin.val_add, Fin.val_ofNat]
  omega

/-- The last of `k + 1` output reads returns the word `k` positions on, and the reads move the index only (R321). -/
theorem execAll_cdoutR (k : Nat) (s : State) : ∃ t, execAll (List.replicate (k + 1) (.cdoutR .b4)) s = .next t ∧
    t.cfg = s.cfg ∧ t.cipher = { s.cipher with outIdx := t.cipher.outIdx } ∧
    t.resp = .data .b4 (bswap32 (quadGet s.cipher.cdout (s.cipher.outIdx + Fin.ofNat 4 k))) := by
  induction k generalizing s with
  | zero => exact ⟨_, execAll_singleton (exec_cdoutR ..), rfl, rfl, by rw [Fin.ofNat_zero, add_zero]; rfl⟩
  | succ k ih =>
    obtain ⟨t, ht, hcfg, hcipher, hresp⟩ := ih ((s.setCipher
      { s.cipher with outIdx := s.cipher.outIdx + 1 }).respond
      (.data .b4 (canonicalData .b4 (bswap32 (quadGet s.cipher.cdout s.cipher.outIdx)))))
    refine ⟨t, (execAll_cons (exec_cdoutR ..)).trans ht, hcfg, hcipher, ?_⟩
    rw [hresp, ← add_ofNat_succ]
    rfl

/-- A read-out starts at word 0, wherever an earlier one stopped (R312). -/
theorem execAll_readOut (k : Nat) (s : State) : ∃ t, execAll (readOut (k + 1)) s = .next t ∧
    t.cfg = s.cfg ∧ t.cipher = { s.cipher with outIdx := t.cipher.outIdx } ∧
    t.resp = .data .b4 (bswap32 (quadGet s.cipher.cdout (Fin.ofNat 4 k))) := by
  obtain ⟨t, ht, hcfg, hcipher, hresp⟩ := execAll_cdoutR k ((s.setCipher { s.cipher with outIdx := 0 }).respond
    (.data .b4 (canonicalData .b4 s.cfg.cipherReady)))
  refine ⟨t, (execAll_cons (exec_ccmdR ..)).trans ht, hcfg, hcipher, ?_⟩
  rw [hresp]
  simp only [respond_cipher, setCipher_cipher, zero_add]

/-- What a read-out returns: the output latch, its words swapped. -/
theorem readsOut_quadSwap_cdout (s : State) : ReadsOut s (quadSwap s.cipher.cdout) := by
  intro j
  obtain ⟨t, ht, _, _, hresp⟩ := execAll_readOut j.val s
  exact ⟨t, ht, by rw [hresp, Fin.ofNat_val_eq_self, quadGet_quadSwap]⟩

/-! ## Two sessions (R324) -/

/-- A bit of a word with bit `d` set. -/
theorem getLsbD_or_bit (x : Word) {d : Nat} (hd : d < 32) (i : Nat) :
    (x ||| 1#32 <<< d).getLsbD i = (x.getLsbD i || decide (d = i)) := by
  rw [BitVec.getLsbD_or, ← BitVec.twoPow_eq, BitVec.getLsbD_twoPow, decide_eq_true hd, Bool.true_and]

theorem ccmdDirBit_lt {c : Cfg} (h : c.WF) : c.ccmdDirBit < 32 := by
  obtain ⟨_, _, _, _, _, _, htypes⟩ := h
  obtain ⟨_, _, _, _, _, _, _, _, hdir, _⟩ := htypes
  exact hdir

/-- The direction bit set makes a command decrypt. -/
theorem cipherDecrypt_or_dirBit {c : Cfg} (h : c.WF) (cmd : Word) :
    cipherDecrypt c (cmd ||| 1#32 <<< c.ccmdDirBit) = true := by
  rw [cipherDecrypt, getLsbD_or_bit cmd (ccmdDirBit_lt h), decide_eq_true rfl, Bool.or_true]

/-- The direction bit set leaves the mode of a command. -/
theorem cipherCbc_or_dirBit {c : Cfg} (h : c.WF) (hbits : c.ccmdDirBit ≠ c.ccmdCbcBit) (cmd : Word) :
    cipherCbc c (cmd ||| 1#32 <<< c.ccmdDirBit) = cipherCbc c cmd := by
  rw [cipherCbc, getLsbD_or_bit cmd (ccmdDirBit_lt h), decide_eq_false hbits, Bool.or_false, cipherCbc]

/-- The transform of a decrypting unit inverts that of an encrypting one with its mode, key and chain value. -/
theorem transform_decrypts {c : Cfg} {u v : CipherUnit} (hinv : ∀ k b, bcDec c k (bcEnc c k b) = b)
    (henc : cipherDecrypt c u.ccmd = false) (hdec : cipherDecrypt c v.ccmd = true)
    (hmode : cipherCbc c v.ccmd = cipherCbc c u.ccmd) (hkey : v.ckey = u.ckey) (hiv : v.civ = u.civ)
    (hin : v.cdin = (transform c u).cdout) : (transform c v).cdout = u.cdin := by
  cases hcbc : cipherCbc c u.ccmd with
  | false =>
    rw [transform_ecb_encrypt hcbc henc] at hin
    rw [transform_ecb_decrypt (hmode.trans hcbc) hdec]
    simp only [hin, hkey, hinv]
  | true =>
    rw [transform_cbc_encrypt hcbc henc] at hin
    rw [transform_cbc_decrypt (hmode.trans hcbc) hdec]
    simp only [hin, hkey, hiv, hinv, quadXor_quadXor_self]

/-- Settles O54: the second session's unit inverts the transform of the first one's, and the swap on the way out is
undone on the way in. -/
theorem cipherRoundTrip : Obligations.CipherRoundTrip := by
  intro s mode cmd key iv block hwf hbits hinv hkey hdin hcmd
  obtain ⟨t1, ht1, hcfg1, hkey1, hdin1, hout1⟩ := execAll_cipherSession_spec mode cmd key iv block hkey hdin
  obtain ⟨t2, ht2, hcfg2, hcipher2, _⟩ := execAll_readOut 3 t1
  have hkey2 : t2.cipher.keyIdx = 0 := by rw [hcipher2]; exact hkey1
  have hdin2 : t2.cipher.dinIdx = 0 := by rw [hcipher2]; exact hdin1
  obtain ⟨t3, ht3, _, _, _, hout3⟩ := execAll_cipherSession_spec mode (cmd ||| 1#32 <<< s.cfg.ccmdDirBit) key iv
    (quadSwap t1.cipher.cdout) hkey2 hdin2
  have hin : quadSwap (quadSwap t1.cipher.cdout) =
      (transform s.cfg (sessionUnit s.cipher mode cmd key iv block)).cdout := by rw [quadSwap_quadSwap, hout1]
  have hback : t3.cipher.cdout = quadSwap block := by
    rw [hout3, hcfg2, hcfg1]
    exact transform_decrypts (u := sessionUnit s.cipher mode cmd key iv block) hinv hcmd
      (cipherDecrypt_or_dirBit hwf cmd) (cipherCbc_or_dirBit hwf hbits cmd) rfl rfl hin
  refine ⟨t1, _, t2, t3, ht1, readsOut_quadSwap_cdout t1, ht2, ht3, ?_⟩
  rw [← quadSwap_quadSwap block, ← hback]
  exact readsOut_quadSwap_cdout t3

end Sys2Proof.Machine
end

section
/-! SUPPORT. The bus operations of the ports, one equation per operation (R356 to R361), and the collaborator's vectors
and own steps, one equation per case (R352, R353). -/

namespace Sys2Proof.Machine

/-! ## Ports by number -/

@[simp] theorem respond_port (s : State) (r : Resp) (p : Nat) : (s.respond r).port p = s.port p := rfl

@[simp] theorem port_setPort_self (s : State) (p : Nat) (x : GpioPort) (h : p < s.ports.length) :
    (s.setPort p x).port p = x := by
  rw [port_setPort, if_pos ⟨rfl, h⟩]

theorem setPort_ports_getElem?_ne (s : State) (x : GpioPort) {p q : Nat} (h : q ≠ p) :
    (s.setPort p x).ports[q]? = s.ports[q]? :=
  List.getElem?_set_ne h.symm

/-! ## The collaborator's vectors by number -/

theorem pins_congr {s t : State} (h : t.collab = s.collab) (p : Nat) : t.pins p = s.pins p := by
  rw [State.pins, h, State.pins]

@[simp] theorem respond_pins (s : State) (r : Resp) (p : Nat) : (s.respond r).pins p = s.pins p := rfl

@[simp] theorem setPort_pins (s : State) (q : Nat) (x : GpioPort) (p : Nat) : (s.setPort q x).pins p = s.pins p := rfl

theorem pins_setPins_self (s : State) (p : Nat) (x : PinVec) (h : p < s.collab.pins.length) :
    (s.setPins p x).pins p = x := by
  rw [pins_setPins, if_pos ⟨rfl, h⟩]

theorem pins_setPins_ne (s : State) {q p : Nat} (x : PinVec) (h : q ≠ p) : (s.setPins q x).pins p = s.pins p := by
  rw [pins_setPins, if_neg fun hq => h hq.1]

/-! ## The collaborator's operations -/

/-- `PinSet` of an external collaborator (R352). -/
theorem pinSet_external (p : Nat) (dir out : Half) (s : State) (h : s.cfg.collab = .external) : pinSet p dir out s =
    { s with collab := { s.collab with token := Config.extPinSet s.collab.token p dir out } } := by
  rw [pinSet, h]

/-- `PinGet` of an external collaborator (R352). -/
theorem pinGet_external (p : Nat) (s : State) (h : s.cfg.collab = .external) :
    pinGet s p = Config.extPinGet s.collab.token p := by
  rw [pinGet, h]

/-- `PinSet` leaves the vectors of the other ports alone, whichever the collaborator is (R352). -/
theorem pins_pinSet_ne (s : State) {q p : Nat} (dir out : Half) (h : q ≠ p) :
    (pinSet q dir out s).pins p = s.pins p := by
  cases hc : s.cfg.collab with
  | null => rw [pinSet_null q dir out s hc, pins_setPins_ne s _ h]
  | external => rw [pinSet_external q dir out s hc]; rfl

/-- An override of the null collaborator on a port of the block (R353). -/
theorem envPinOverride_of_enabled {p : Nat} {s : State} (hc : s.cfg.collab = .null) (hp : p < s.cfg.numPorts)
    (dir out ext : Option Half) : envPinOverride p dir out ext s =
      .next (s.setPins p ⟨dir.getD (s.pins p).dir, out.getD (s.pins p).out, ext.getD (s.pins p).ext⟩) :=
  if_pos (by rw [decide_eq_true hc, decide_eq_true hp]; rfl)

/-- An override of an external collaborator on a port of the block: its relation decides (R352, R353). -/
theorem envPinOverrideExt_of_external {p : Nat} {s : State} (hc : s.cfg.collab = .external)
    (hp : p < s.cfg.numPorts) (token : Nat) : envPinOverrideExt p token s =
      if Config.extMoves p s.collab.token token then .next { s with collab := { s.collab with token := token } }
      else .refused .notEnabled := by
  rw [envPinOverrideExt, decide_eq_true hc, decide_eq_true hp, Bool.true_and, Bool.true_and]

/-! ## Bus operations of a port -/

section
variable (p : Nat) (i : Fin 16) (w : Width) (v : Word) (s : State)

theorem exec_pctlW : exec (.pctlW p w v) s =
    .next ((pinSet p (lowHalf (canonicalData w v)) (highHalf (canonicalData w v)) (s.setPort p { s.port p with
      pdr := lowHalf (canonicalData w v), podr := highHalf (canonicalData w v) })).respond .done) := by
  rw [← writeOperand_word]
  rfl

theorem exec_pctlW_of_null (h : s.cfg.collab = .null) : exec (.pctlW p w v) s =
    .next (((s.setPort p { s.port p with
      pdr := lowHalf (canonicalData w v), podr := highHalf (canonicalData w v) }).setPins p { s.pins p with
      dir := lowHalf (canonicalData w v), out := highHalf (canonicalData w v) }).respond .done) := by
  rw [exec_pctlW, pinSet_null _ _ _ (s.setPort _ _) h]
  rfl

theorem exec_pctlW_of_external (h : s.cfg.collab = .external) : exec (.pctlW p w v) s =
    .next (({ s.setPort p { s.port p with
      pdr := lowHalf (canonicalData w v), podr := highHalf (canonicalData w v) } with
      collab := ⟨s.collab.pins, Config.extPinSet s.collab.token p (lowHalf (canonicalData w v))
        (highHalf (canonicalData w v))⟩ }).respond .done) := by
  rw [exec_pctlW, pinSet_external _ _ _ (s.setPort _ _) h]
  rfl

theorem exec_pctlR : exec (.pctlR p w) s =
    .next (s.respond (.data w (canonicalData w (joinHalves (pinGet s p).2.1 (pinGet s p).1)))) := rfl

theorem exec_pinR : exec (.pinR p w) s =
    .next (s.respond (.data w (canonicalData w (joinHalves (pinGet s p).1 (pinGet s p).2.2)))) := rfl

theorem exec_pinW : exec (.pinW p w v) s = .next (s.respond .done) := rfl

theorem exec_pfsW : exec (.pfsW p i w v) s =
    .next ((s.setPort p { s.port p with
      pfs := (s.port p).pfs.set i.val ((canonicalData w v).setWidth 8) i.isLt }).respond .done) := rfl

theorem exec_pfsR : exec (.pfsR p i w) s =
    .next (s.respond (.data w (canonicalData w (((s.port p).pfs[i.val]).setWidth 32)))) := rfl

end

end Sys2Proof.Machine
end

section
/-! What a 32-bit write to `PCTL` wrote is read back, with the null collaborator (R362): of all actions only a control
write to the port and an override of its direction or output data change what is driven there. -/

namespace Sys2Proof.Machine

/-! ## What is driven on a port -/

/-- Direction and output data the null collaborator holds for port `p`: what `PCTL[p]` reads (R357). -/
def State.drive (s : State) (p : Nat) : Half × Half := ((s.pins p).dir, (s.pins p).out)

theorem drive_congr {s t : State} {p : Nat} (h : t.pins p = s.pins p) : t.drive p = s.drive p := by
  rw [State.drive, h, State.drive]

/-- New vectors with the direction and output data of the old ones change nothing that is driven, on any port. -/
theorem drive_setPins_of_eq {s : State} {q : Nat} {x : PinVec} (hdir : x.dir = (s.pins q).dir)
    (hout : x.out = (s.pins q).out) (p : Nat) : (s.setPins q x).drive p = s.drive p := by
  rw [State.drive, pins_setPins]
  split
  · next h => rw [hdir, hout, h.1, State.drive]
  · rfl

theorem exec_pctlR_of_null {s : State} (h : s.cfg.collab = .null) (p : Nat) (w : Width) : exec (.pctlR p w) s =
    .next (s.respond (.data w (canonicalData w (joinHalves (s.drive p).2 (s.drive p).1)))) := by
  rw [exec_pctlR, pinGet_null p s h, State.drive]

/-- A control write to a port that is there leaves what it wrote driven. -/
theorem exec_pctlW_drive {s s' : State} {p : Nat} {w : Width} {v : Word} (hc : s.cfg.collab = .null)
    (hp : p < s.collab.pins.length) (e : exec (.pctlW p w v) s = .next s') :
    s'.drive p = (lowHalf (canonicalData w v), highHalf (canonicalData w v)) := by
  rw [exec_pctlW_of_null p w v s hc] at e
  cases e
  rw [State.drive, respond_pins, pins_setPins_self (s.setPort _ _) _ _ hp]

theorem exec_cfg {i : Instr} {s s' : State} (e : exec i s = .next s') : s'.cfg = s.cfg := by
  obtain ⟨u, r, heffect, hnext⟩ := exec_effect i s
  cases e.symm.trans hnext
  exact heffect.cfg_schedule.1

/-! ## What changes it -/

/-- Of the bus operations only a control write to the port reaches the collaborator's vectors of it. -/
theorem BusEffect.pins {s u : State} {i : Instr} (h : BusEffect s i u) {p : Nat} (hi : ∀ w v, i ≠ .pctlW p w v) :
    u.pins p = s.pins p := by
  cases h with
  | @portControl q w v =>
    have hq : q ≠ p := fun hq => hi w v (congrArg (Instr.pctlW · w v) hq)
    rw [pins_pinSet_ne _ _ _ hq, setPort_pins]
  | start n => exact pins_congr ((startTimer_owned n s).ports_collab_eq nofun).2 p
  | receive ch => exact pins_congr ((popSerial_owned ch s).ports_collab_eq nofun).2 p
  | transmit => exact pins_congr (irqAssert_collab ..) p
  | control => exact pins_congr (irqPulse_collab ..) p
  | unchanged | timerLatch | flashLatch | flashClear | flashWrite | flashErase | flashBlank | cipher | portLatch => rfl

theorem busAccess_pins {s s' : State} {t : Txn} {p : Nat} (e : busAccess t s = .next s')
    (h : ∀ w v, (Action.bus t).operation s.cfg ≠ some (.pctlW p w v)) : s'.pins p = s.pins p := by
  obtain ⟨i, hdecode, hexec⟩ := busAccess_spec e
  obtain ⟨u, r, heffect, hnext⟩ := exec_effect i s
  cases hexec.symm.trans hnext
  exact heffect.pins fun w v hi => h w v (hdecode.trans (congrArg some hi))

/-- An action that does not drive the port leaves what is driven there. -/
theorem perform_drive {s s' : State} {a : Action} {p : Nat} (e : perform a s = .next s')
    (h : ¬ a.drivesPort s.cfg p) : s'.drive p = s.drive p := by
  obtain ⟨hcontrol, hoverride⟩ := not_or.1 h
  cases a with
  | bus t =>
    rw [perform_bus] at e
    exact drive_congr (busAccess_pins e fun w v hd => hcontrol ⟨w, v, hd⟩)
  | tCheck n =>
    obtain ⟨_, rfl⟩ := agentTCheck_spec e
    rfl
  | tExpire n =>
    obtain ⟨_, _, rfl⟩ := agentTExpire_spec e
    exact drive_congr (pins_congr (irqPulse_collab ..) p)
  | rxDeliver ch bytes =>
    obtain ⟨_, _, rfl⟩ := envRxDeliver_spec e
    rfl
  | rxPush ch k =>
    obtain ⟨_, ⟨_, rfl⟩ | ⟨_, rfl⟩⟩ := agentRxPush_spec e
    · exact drive_congr (pins_congr (irqAssert_collab ..) p)
    · rfl
  | rxAssert ch =>
    obtain ⟨_, rfl⟩ := agentRxAssert_spec e
    exact drive_congr (pins_congr (irqAssert_collab ..) p)
  | pinOverride q dir out ext =>
    obtain ⟨_, _, rfl⟩ := envPinOverride_spec e
    by_cases hq : q = p
    · subst hq
      have hnone : dir = none ∧ out = none := by
        simpa using fun hdrives => hoverride ⟨dir, out, ext, rfl, hdrives⟩
      obtain ⟨rfl, rfl⟩ := hnone
      exact drive_setPins_of_eq (by rfl) (by rfl) q
    · exact drive_congr (pins_setPins_ne s _ hq)
  | pinOverrideExt q token =>
    obtain ⟨_, _, _, rfl⟩ := envPinOverrideExt_spec e
    rfl
  | irqSample =>
    cases e
    rfl

theorem step_drive {s s' : State} {p : Nat} (e : step s = .next s') (h : ∀ a ∈ s.schedule, ¬ a.drivesPort s.cfg p) :
    s'.drive p = s.drive p := by
  obtain rfl | ⟨a, rest, hs, ha⟩ := step_spec e
  · rfl
  · have hmem : a ∈ s.schedule := hs ▸ List.mem_cons_self
    exact perform_drive (s := { s with schedule := rest }) ha (h a hmem)

/-- As long as nothing scheduled drives the port, a run leaves what is driven there. -/
theorem stepN_drive {k : Nat} {s s' : State} {p : Nat} (e : stepN k s = .next s')
    (h : ∀ a ∈ s.schedule, ¬ a.drivesPort s.cfg p) : s'.cfg = s.cfg ∧ s'.drive p = s.drive p := by
  induction k generalizing s with
  | zero =>
    cases e
    exact ⟨rfl, rfl⟩
  | succ k ih =>
    obtain ⟨u, hu, hrest⟩ := stepN_succ_spec e
    obtain ⟨hcfg, hschedule, _⟩ := agentsLeaveFlashCipherPortsAlone s u hu
    obtain ⟨hcfg', hdrive'⟩ := ih hrest fun a ha => hcfg ▸ h a (List.mem_of_mem_tail (hschedule ▸ ha))
    exact ⟨hcfg'.trans hcfg, hdrive'.trans (step_drive hu h)⟩

/-- Settles O58: the write leaves both halves of the value driven, the run leaves them so, and the read joins them. -/
theorem portReadsBackWhatWasWritten : Obligations.PortReadsBackWhatWasWritten := by
  intro s s1 s2 p k v hinv hc hp hwrite hquiet hrun
  obtain ⟨_, _, _, _, hpins, _⟩ := hinv
  obtain ⟨hcfg2, hdrive2⟩ := stepN_drive hrun hquiet
  have hdrive := hdrive2.trans (exec_pctlW_drive hc (hpins ▸ hp) hwrite)
  have hnull : s2.cfg.collab = .null := by rw [hcfg2, exec_cfg hwrite, hc]
  rw [exec_pctlR_of_null hnull, hdrive, joinHalves_high_low]
  rfl

end Sys2Proof.Machine
end

section
/-! The bus operations of the ports and the collaborator's own steps (R352, R353, R356 to R361). -/

namespace Sys2Proof.Machine

/-- Settles O55: each operation with the collaborator's side of it, the null one's and an external one's. -/
theorem portControlAndPins : Obligations.PortControlAndPins := by
  intro p w v s
  refine ⟨fun hnull => ⟨exec_pctlW_of_null p w v s hnull, ?nullControl, ?nullPins⟩,
    fun hext => ⟨exec_pctlW_of_external p w v s hext, ?extControl, ?extPins⟩, exec_pinW p w v s⟩
  case nullControl =>
    rw [exec_pctlR, pinGet_null p s hnull]
    rfl
  case nullPins =>
    refine ⟨pinLevels (s.pins p), ?_, pinLevels_getLsbD (s.pins p)⟩
    rw [exec_pinR, pinGet_null p s hnull]
    rfl
  case extControl =>
    rw [exec_pctlR, pinGet_external p s hext]
    rfl
  case extPins =>
    rw [exec_pinR, pinGet_external p s hext]
    rfl

/-- Settles O56: the write sets one entry of one port's vector of latches. -/
theorem alternateFunctionLatches : Obligations.AlternateFunctionLatches := by
  intro p i w v s
  refine ⟨exec_pfsR p i w s, fun hp => ⟨_, exec_pfsW p i w v s, ?_⟩⟩
  rw [respond_port, port_setPort_self s p _ hp]
  refine ⟨?written, fun j hj => ?others, rfl, rfl, fun q => setPort_ports_getElem?_ne s _, rfl⟩
  case written => exact Vector.getElem_set_self i.isLt
  case others => exact Vector.getElem_set_ne i.isLt j.isLt fun h => hj (Fin.ext h.symm)

/-- Settles O57: each collaborator's own step on a port of the block. -/
theorem collaboratorOverride : Obligations.CollaboratorOverride :=
  fun _ token dir out ext _ hp =>
    ⟨fun hnull => envPinOverride_of_enabled hnull hp dir out ext,
      fun hext => envPinOverrideExt_of_external hext hp token⟩

end Sys2Proof.Machine
end

section
/-! SUPPORT. What a step can do to the interrupt lines, said once: it leaves levels and history as they are, or it
records one event of the kinds the interrupt bridge has a source for (R380 to R389). -/

namespace Sys2Proof.Machine

/-! ## One event -/

/-- The lines of `s` with one event more: recorded last, its own line at the level it asks for (R381 to R383). -/
def RecordsEvent (s t : State) (e : Event) : Prop :=
  t.hist = s.hist ++ [e] ∧ ∀ l, t.irqLevel l = if l = e.line then e.isAssert else s.irqLevel l

/-- The lines are as before, or have one event more, which is one of `E`. -/
def LinesEffect (s t : State) (E : Event → Prop) : Prop :=
  (t.hist = s.hist ∧ t.irqHigh = s.irqHigh) ∨ ∃ e, E e ∧ RecordsEvent s t e

section
variable {s : State} {E : Event → Prop} {l : Option Nat}

theorem LinesEffect.kept {t : State} (hhist : t.hist = s.hist) (hlines : t.irqHigh = s.irqHigh) :
    LinesEffect s t E :=
  .inl ⟨hhist, hlines⟩

theorem irqAssert_linesEffect (h : ∀ m, l = some m → E (.assert m)) : LinesEffect s (irqAssert l s) E := by
  cases l with
  | none => exact .kept rfl rfl
  | some m => exact .inr ⟨_, h m rfl, rfl, fun k => irqLevel_irqAssert m k s⟩

theorem irqClear_linesEffect (h : ∀ m, l = some m → E (.clear m)) : LinesEffect s (irqClear l s) E := by
  cases l with
  | none => exact .kept rfl rfl
  | some m => exact .inr ⟨_, h m rfl, rfl, fun k => irqLevel_irqClear m k s⟩

theorem irqPulse_linesEffect {label : Option Nat} (h : ∀ m, l = some m → E (.pulse m label)) :
    LinesEffect s (irqPulse l label s) E := by
  cases l with
  | none => exact .kept rfl rfl
  | some m => exact .inr ⟨_, h m rfl, rfl, fun k => irqLevel_irqPulse m k label s⟩

end

/-! ## The sources of events -/

/-- The events a bus operation can record, and where: each on its own line of a serial channel (R221, R223, R225). -/
inductive BusEvent (s : State) : Instr → Event → Prop
  | transmit {ch l : Nat} {w : Width} {v : Word} (enabled : txie s.cfg (s.serial ch).sctl = true)
      (line : txeLine s.cfg ch = some l) : BusEvent s (.stxdW ch w v) (.assert l)
  | receive {ch l : Nat} {w : Width} (line : rxrLine s.cfg ch = some l) : BusEvent s (.srxdR ch w) (.clear l)
  | control {ch l : Nat} {w : Width} {v : Word} (line : txcLine s.cfg ch = some l) :
      BusEvent s (.sctlW ch w v) (.pulse l none)

/-- The events an action can record (R389): those of its bus operation, the pulse of a timing agent (R197), and the
assertion of the receive path, made by the push itself where `RX_ASSERT_ATOMIC` (R236, R237). -/
inductive ActionEvent (s : State) : Action → Event → Prop
  | bus {t : Txn} {i : Instr} {e : Event} (operation : (Action.bus t).operation s.cfg = some i)
      (event : BusEvent s i e) : ActionEvent s (.bus t) e
  | expire {n us l : Nat} (line : timerLineOf s.cfg n = some l) : ActionEvent s (.tExpire n) (.pulse l (some us))
  | push {ch k l : Nat} (atomic : s.cfg.rxAssertAtomic = true) (line : rxrLine s.cfg ch = some l) :
      ActionEvent s (.rxPush ch k) (.assert l)
  | assert {ch l : Nat} (line : rxrLine s.cfg ch = some l) : ActionEvent s (.rxAssert ch) (.assert l)

theorem popSerial_linesEffect (ch : Nat) (w : Width) (s : State) :
    LinesEffect s (popSerial ch s) (BusEvent s (.srxdR ch w)) := by
  rcases popSerial_spec ch s with ⟨_, e⟩ | ⟨_, e⟩ | ⟨_, e⟩ <;> rw [e]
  · exact .kept rfl rfl
  · exact irqClear_linesEffect fun _ => .receive
  · exact .kept rfl rfl

theorem BusEffect.linesEffect {s u : State} {i : Instr} (h : BusEffect s i u) : LinesEffect s u (BusEvent s i) := by
  cases h with
  | transmit =>
    refine irqAssert_linesEffect fun m hm => ?_
    obtain ⟨htxie, hline⟩ := Option.ite_none_right_eq_some.1 hm
    exact .transmit htxie hline
  | receive ch w => exact popSerial_linesEffect ch w s
  | control =>
    exact irqPulse_linesEffect fun m hm => .control (Option.ite_none_right_eq_some.1 hm).2
  | start n =>
    obtain ⟨hlines, hhist⟩ := (startTimer_owned n s).irqHigh_hist_eq nofun
    exact .kept hhist hlines
  | portControl => exact .kept (by simp) (by simp)
  | unchanged | timerLatch | flashLatch | flashClear | flashWrite | flashErase | flashBlank | cipher | portLatch =>
    exact .kept rfl rfl

theorem perform_linesEffect {s s' : State} {a : Action} (e : perform a s = .next s') :
    LinesEffect s s' (ActionEvent s a) := by
  cases a with
  | bus t =>
    rw [perform_bus] at e
    obtain ⟨i, hdecode, hexec⟩ := busAccess_spec e
    obtain ⟨u, r, heffect, hnext⟩ := exec_effect i s
    cases hexec.symm.trans hnext
    exact heffect.linesEffect.imp_right fun ⟨ev, hev, hrecords⟩ => ⟨ev, .bus hdecode hev, hrecords⟩
  | tExpire n =>
    obtain ⟨us, _, rfl⟩ := agentTExpire_spec e
    exact irqPulse_linesEffect fun _ => .expire
  | rxPush ch k =>
    obtain ⟨_, ⟨hatomic, rfl⟩ | ⟨_, rfl⟩⟩ := agentRxPush_spec e
    · exact irqAssert_linesEffect fun _ => .push hatomic
    · exact .kept rfl rfl
  | rxAssert ch =>
    obtain ⟨_, rfl⟩ := agentRxAssert_spec e
    exact irqAssert_linesEffect fun _ => .assert
  | tCheck n =>
    obtain ⟨_, rfl⟩ := agentTCheck_spec e
    exact .kept rfl rfl
  | rxDeliver ch bytes =>
    obtain ⟨_, _, rfl⟩ := envRxDeliver_spec e
    exact .kept rfl rfl
  | pinOverride p dir out ext =>
    obtain ⟨_, _, rfl⟩ := envPinOverride_spec e
    exact .kept rfl rfl
  | pinOverrideExt p token =>
    obtain ⟨_, _, _, rfl⟩ := envPinOverrideExt_spec e
    exact .kept rfl rfl
  | irqSample =>
    cases e
    exact .kept rfl rfl

/-- The schedule has no part in which events an action can record. -/
theorem ActionEvent.of_schedule {s : State} {rest : List Action} {a : Action} {e : Event}
    (h : ActionEvent { s with schedule := rest } a e) : ActionEvent s a e := by
  cases h with
  | bus hoperation hevent =>
    refine .bus hoperation ?_
    cases hevent with
    | transmit htxie hline => exact .transmit htxie hline
    | receive hline => exact .receive hline
    | control hline => exact .control hline
  | expire hline => exact .expire hline
  | push hatomic hline => exact .push hatomic hline
  | assert hline => exact .assert hline

/-- A step leaves the lines as they are, or its action records one event. -/
theorem step_linesEffect {s s' : State} (e : step s = .next s') :
    LinesEffect s s' fun ev => ∃ a rest, s.schedule = a :: rest ∧ ActionEvent s a ev := by
  obtain rfl | ⟨a, rest, hs, ha⟩ := step_spec e
  · exact .kept rfl rfl
  · exact (perform_linesEffect ha).imp_right fun ⟨ev, hev, hrecords⟩ =>
      ⟨ev, ⟨a, rest, hs, hev.of_schedule⟩, hrecords⟩

end Sys2Proof.Machine
end

section
/-! The interrupt lines: the operations of the bridge, and what every step keeps of levels and history (R380 to R389). -/

namespace Sys2Proof.Machine

/-- Settles O35, by the law of each operation for the levels and its equation for the history. -/
theorem interruptBridge : Obligations.InterruptBridge := by
  intro s l label
  refine ⟨rfl, ?assertLevel, rfl, ?clearLevel, rfl, ?pulseLevel, fun m hm => ⟨?_, ?_, ?_⟩, ?frame, rfl, rfl, rfl⟩
  case assertLevel => rw [irqLevel_irqAssert, if_pos rfl]
  case clearLevel => rw [irqLevel_irqClear, if_pos rfl]
  case pulseLevel => rw [irqLevel_irqPulse, if_pos rfl]
  case frame => rintro t (rfl | rfl | rfl) <;> rfl
  · rw [irqLevel_irqAssert, if_neg hm]
  · rw [irqLevel_irqClear, if_neg hm]
  · rw [irqLevel_irqPulse, if_neg hm]

/-- One event more keeps the levels the summary of the history (R380). -/
theorem RecordsEvent.irqLevel_eq_levelAfter {s t : State} {e : Event} (h : RecordsEvent s t e) {l : Nat}
    (hs : s.irqLevel l = levelAfter l s.hist) : t.irqLevel l = levelAfter l t.hist := by
  obtain ⟨hhist, hlevel⟩ := h
  rw [hhist, levelAfter_append, hlevel, hs]
  simp only [eq_comm]

/-- Settles O14: a step leaves the lines as they are, or takes both the levels and their summary one event further. -/
theorem lineLevelsSummarizeHistory : Obligations.LineLevelsSummarizeHistory := by
  refine ⟨fun s s' hs e l => ?_, fun _ _ => rfl⟩
  obtain ⟨hhist, hlines⟩ | ⟨_, _, hrecords⟩ := step_linesEffect e
  · rw [irqLevel_congr hlines, hhist, hs]
  · exact hrecords.irqLevel_eq_levelAfter (hs l)

/-- Settles O15: the sources of events are the named steps. -/
theorem atMostOneLineEventPerStep : Obligations.AtMostOneLineEventPerStep := by
  intro s s' e
  refine (step_linesEffect e).imp_right ?_
  rintro ⟨ev, ⟨a, rest, hs, hev⟩, hhist, _⟩
  refine ⟨ev, a, rest, hhist, hs, ?_⟩
  cases hev with
  | @expire n => exact .inl ⟨n, rfl⟩
  | @assert ch => exact .inr (.inl ⟨ch, rfl⟩)
  | @push ch k _ hatomic => exact .inr (.inr (.inl ⟨ch, k, rfl, hatomic⟩))
  | bus hoperation hevent =>
    refine .inr (.inr (.inr ?_))
    cases hevent with
    | @transmit ch _ w v => exact .inl ⟨ch, w, v, hoperation⟩
    | @receive ch _ w => exact .inr (.inl ⟨ch, w, hoperation⟩)
    | @control ch _ w v => exact .inr (.inr ⟨ch, w, v, hoperation⟩)

theorem txeLine_inj {c : Cfg} (hc : c.LinesOk) {m n l : Nat} (hm : txeLine c m = some l) (hn : txeLine c n = some l) :
    m = n :=
  LineOf.channel_inj hc (.inl hm) (.inl hn)

/-- A tx-empty line is no tx-complete line, of its own channel or of another. -/
theorem txeLine_ne_txcLine {c : Cfg} (hc : c.LinesOk) {m n k l : Nat} (hk : txeLine c m = some k)
    (hl : txcLine c n = some l) : k ≠ l := by
  rintro rfl
  obtain rfl := LineOf.channel_inj hc (.inl hk) (.inr (.inl hl))
  obtain ⟨x, hx, rfl⟩ := Option.map_eq_some_iff.1 hl
  have hnodup := linesOf_nodup hc hx
  simp only [txeLine, hx, Option.map_some, Option.some_inj] at hk
  simp [hk] at hnodup

/-- The events on a tx-empty line have one source, the `STXD` write of its channel with `TXIE` set (R12 (f), R220). -/
theorem ActionEvent.transmit_of_txeLine {s : State} {a : Action} {e : Event} (h : ActionEvent s a e) (hc : s.cfg.LinesOk)
    {ch : Nat} (hl : txeLine s.cfg ch = some e.line) :
    e.isAssert = true ∧ txie s.cfg (s.serial ch).sctl = true ∧ ∃ w v, a.operation s.cfg = some (.stxdW ch w v) := by
  cases h with
  | expire hline => exact absurd rfl (LineOf.ne_timerLine hc (.inl hl) hline)
  | push _ hline | assert hline => exact absurd rfl (transmitLine_ne_rxrLine hc (.inl hl) hline)
  | bus hoperation hevent =>
    cases hevent with
    | @transmit m _ w v htxie hline =>
      obtain rfl := txeLine_inj hc hline hl
      exact ⟨rfl, htxie, w, v, hoperation⟩
    | receive hline => exact absurd rfl (transmitLine_ne_rxrLine hc (.inl hl) hline)
    | control hline => exact absurd rfl (txeLine_ne_txcLine hc hl hline)

/-- A step leaves a tx-empty line as it is, or is the `STXD` write of its channel with `TXIE` set and raises it. -/
theorem step_txeLine {s s' : State} (e : step s = .next s') (hc : s.cfg.LinesOk) {ch l : Nat}
    (hl : txeLine s.cfg ch = some l) : s'.irqLevel l = s.irqLevel l ∨
      s'.irqLevel l = true ∧ txie s.cfg (s.serial ch).sctl = true ∧
        ∃ a rest w v, s.schedule = a :: rest ∧ a.operation s.cfg = some (.stxdW ch w v) := by
  obtain ⟨_, hlines⟩ | ⟨ev, ⟨a, rest, hs, hev⟩, _, hlevel⟩ := step_linesEffect e
  · exact .inl (irqLevel_congr hlines l)
  · by_cases hline : l = ev.line
    · obtain ⟨hassert, htxie, w, v, hoperation⟩ := hev.transmit_of_txeLine hc (hline ▸ hl)
      exact .inr ⟨(hlevel l).trans ((if_pos hline).trans hassert), htxie, a, rest, w, v, hs, hoperation⟩
    · exact .inl ((hlevel l).trans (if_neg hline))

/-- Settles O16: a step leaves the line as it is, or raises it by the named write. -/
theorem transmitLineNeverCleared : Obligations.TransmitLineNeverCleared := by
  intro s s' ch l hinv _ hl e
  obtain hkept | ⟨hup, hwrite⟩ := step_txeLine e hinv.linesOk hl
  · rw [hkept]
    exact ⟨id, fun hdown hup => absurd (hdown.symm.trans hup) (by decide)⟩
  · exact ⟨fun _ => hup, fun _ _ => hwrite⟩

end Sys2Proof.Machine
end

section
/-! Every bus operation completes, with the answer its direction and width ask for (R160, R161, R400). -/

namespace Sys2Proof.Machine

/-- The outcome of an access that completes: nothing returned to a write, a value of the access width to a read. -/
def Completes (a : Access) (r : Result) : Prop :=
  ∃ t, r = .next t ∧ (a.write = true → t.resp = .done) ∧
    (a.write = false → ∃ v, t.resp = .data a.width v ∧ v.toNat < 2 ^ (8 * a.width.bytes))

theorem completes_finishWrite (w : Width) (addr : Nat) (v : Word) (s : State) :
    Completes (writeAccess w addr v) (finishWrite s) :=
  ⟨_, rfl, fun _ => rfl, nofun⟩

theorem readValue_lt (w : Width) (r : Word) : (readValue w r).toNat < 2 ^ (8 * w.bytes) :=
  of_decide_eq_true (fits_canonicalData w r)

theorem completes_finishRead (w : Width) (addr : Nat) (r : Word) (s : State) :
    Completes (readAccess w addr) (finishRead w r s) :=
  ⟨_, rfl, nofun, fun _ => ⟨_, rfl, readValue_lt w r⟩⟩

/-- Each operation ends as a read or as a write, whichever its access is. -/
theorem exec_completes (i : Instr) (s : State) : Completes (i.access s.cfg) (exec i s) :=
  match i with
  -- timer channels
  | .tcntR .. | .tmodR .. | .tctlR .. => completes_finishRead ..
  | .tcntW .. | .tmodW .. | .tctlStart .. | .tctlStop .. | .tctlOther .. => completes_finishWrite ..
  -- serial channels
  | .stxdR .. | .srxdR .. | .sctlR .. => completes_finishRead ..
  | .stxdW .. | .srxdW .. | .sctlW .. => completes_finishWrite ..
  -- the flash controller and its data window
  | .fsahR .. | .fsalR .. | .feahR .. | .fealR .. | .fwdR .. | .fcmdR .. | .fstatR .. => completes_finishRead ..
  | .fsahW .. | .fsalW .. | .feahW .. | .fealW .. | .fwdW .. | .fstatW .. => completes_finishWrite ..
  | .fcmdClear .. | .fcmdWrite .. | .fcmdErase .. | .fcmdBlank .. | .fcmdOther .. => completes_finishWrite ..
  | .flashdR .. => completes_finishRead ..
  | .flashdW .. => completes_finishWrite ..
  -- the cipher unit
  | .ccmdR .. | .cmodeR .. | .ckeyR .. | .civR .. | .cdinR .. | .cdoutR .. => completes_finishRead ..
  | .ccmdW .. | .cmodeW .. | .ckeyW .. | .civW .. | .cdinW .. | .cdoutW .. => completes_finishWrite ..
  -- ports
  | .gpioRejectR .. | .pctlR .. | .pinR .. | .pfsR .. => completes_finishRead ..
  | .gpioRejectW .. | .pctlW .. | .pinW .. | .pfsW .. => completes_finishWrite ..
  -- no register
  | .noregRTimer .. | .noregRSerial .. | .noregRFlashc .. | .noregRCipher .. => completes_finishRead ..
  | .noregRGpio .. | .unmappedR .. => completes_finishRead ..
  | .noregWTimer .. | .noregWSerial .. | .noregWFlashc .. | .noregWCipher .. => completes_finishWrite ..
  | .noregWGpio .. | .unmappedW .. => completes_finishWrite ..

/-- Settles O13: the operation completes as its access asks. -/
theorem everyOperationCompletes : Obligations.EveryOperationCompletes := exec_completes

end Sys2Proof.Machine
end

section
/-! The start of a run: a configuration is checked once, before there is any state (R12, R434). -/

namespace Sys2Proof.Machine

theorem boot_of_wf {c : Cfg} (hc : c.WF) : State.boot c = .next (.init c) := if_pos hc

theorem boot_of_not_wf {c : Cfg} (hc : ¬ c.WF) : State.boot c = .refused .badConfiguration := if_neg hc

/-- Settles O12: the two branches of the check that starts a run. -/
theorem illFormedConfigurationRefused : Obligations.IllFormedConfigurationRefused :=
  fun _ => ⟨boot_of_wf, boot_of_not_wf⟩

end Sys2Proof.Machine
end
